-- ==== Sys2Proof/Word.lean ====
section
/-!
DEFINITION. The value types of vigenere CORE (spec/00_scope.md R12, R14; spec/20_memory.md R61).
-/

namespace Sys2Proof

/-- The unit of every buffer and of IN and OUT: a value in 0..255 (20_memory.md R61). -/
abbrev Byte := BitVec 8

/-- A command word (30_encoding.md R90) or the STATUS register (10_state.md R23). -/
abbrev Word := BitVec 32

/-- `Bytes` of 00_scope.md R12: a finite sequence of bytes. -/
abbrev Bytes := List Byte

end Sys2Proof
end

