-- ==== Sys2Proof/Syntax.lean ====
section
/-!
DEFINITION. The eleven commands of spec/30_encoding.md R93, one constructor for each row of spec/opcode_table.json. A command
carries only the flag its row accepts (R91, R92: no other operand stands in the word).
-/

namespace Sys2Proof

inductive Instr where
  /-- STRETCH; `sel`: destination, false = OUT, true = BKEY (40_keystretcher.md R124). -/
  | stretch (sel : Bool)
  /-- GENPERM; `sel`: seed source, false = IN, true = BKEY (41_permgen.md R145). -/
  | genperm (sel : Bool)
  /-- ENCB (42_blocktransform.md R169). -/
  | encb
  /-- DECB (42_blocktransform.md R170). -/
  | decb
  /-- ENCBLK (42_blocktransform.md R171). -/
  | encblk
  /-- DECBLK (42_blocktransform.md R172). -/
  | decblk
  /-- ENCODE; `c`: compress (42_blocktransform.md R173). -/
  | encode (c : Bool)
  /-- DECODE; `c`: compress (42_blocktransform.md R174). -/
  | decode (c : Bool)
  /-- SENC; `c`: compress (43_streampipeline.md R210 to R212). -/
  | senc (c : Bool)
  /-- SDEC; `c`: compress (43_streampipeline.md R213, R214). -/
  | sdec (c : Bool)
  /-- ABORT (44_control.md R243). -/
  | abort
deriving DecidableEq, Repr

end Sys2Proof
end

