-- ==== Sys2Proof/WellFormed.lean ====
section
/-!
DEFINITION. The fields of format CW (spec/30_encoding.md R91) and which settings of them are legal (R93, R94). The syntax of
`Instr` can only express commands whose flags are accepted, so the checks stand on the fields of a word.
-/

namespace Sys2Proof

/-- The four fields of a command word (R91). -/
structure CommandFields where
  opc : BitVec 8
  c   : Bool
  sel : Bool
  rsv : BitVec 22
deriving DecidableEq, Repr

/-- OPC values that have a row (R93). -/
def CommandFields.assigned (f : CommandFields) : Bool :=
  (1 ≤ f.opc.toNat && f.opc.toNat ≤ 10) || f.opc == 0x0F#8

/-- RSV must be 0 (R91). -/
def CommandFields.reservedClear (f : CommandFields) : Bool := f.rsv == 0#22

/-- C is accepted by ENCODE, DECODE, SENC and SDEC only (R93). -/
def CommandFields.compressAccepted (f : CommandFields) : Bool :=
  !f.c || (7 ≤ f.opc.toNat && f.opc.toNat ≤ 10)

/-- SEL is accepted by STRETCH and GENPERM only (R93). -/
def CommandFields.selectAccepted (f : CommandFields) : Bool :=
  !f.sel || f.opc == 0x01#8 || f.opc == 0x02#8

/-- The word with these fields is legal: R94 negated. -/
def CommandFields.legal (f : CommandFields) : Bool :=
  f.reservedClear && f.assigned && f.compressAccepted && f.selectAccepted

/-- The fields of a command (R93). -/
def Instr.fields : Instr → CommandFields
  | .stretch sel => ⟨0x01, false, sel, 0⟩
  | .genperm sel => ⟨0x02, false, sel, 0⟩
  | .encb => ⟨0x03, false, false, 0⟩
  | .decb => ⟨0x04, false, false, 0⟩
  | .encblk => ⟨0x05, false, false, 0⟩
  | .decblk => ⟨0x06, false, false, 0⟩
  | .encode c => ⟨0x07, c, false, 0⟩
  | .decode c => ⟨0x08, c, false, 0⟩
  | .senc c => ⟨0x09, c, false, 0⟩
  | .sdec c => ⟨0x0A, c, false, 0⟩
  | .abort => ⟨0x0F, false, false, 0⟩

/-- A command is well formed when its fields are legal. -/
def Instr.wellFormed (i : Instr) : Bool := i.fields.legal

end Sys2Proof
end

