-- ==== Sys2Proof/Decode.lean ====
section
/-!
DEFINITION. Decoding and encoding of command words (spec/30_encoding.md R91, R93 to R95). There is no instruction memory and
no byte order: a word is the 32-bit number written to CMD (spec/10_state.md R24, spec/20_memory.md R63).
-/

namespace Sys2Proof

/-- Why a word is illegal (R94). Every reason ends in ILLEGAL_CMD; which one is named when several hold is the model's choice
(log entry 30). -/
inductive DecodeError where
  /-- A nonzero bit in 31:10. -/
  | reservedBits
  /-- OPC has no row. -/
  | unassignedOpcode
  /-- C = 1 with an OPC that does not accept C. -/
  | compressNotAccepted
  /-- SEL = 1 with an OPC that does not accept SEL. -/
  | selectNotAccepted
deriving DecidableEq, Repr

/-- Bit C of a word (R91). -/
def flagC (w : Word) : Bool := w.getLsbD 8

/-- Bit SEL of a word (R91). -/
def flagSel (w : Word) : Bool := w.getLsbD 9

/-- The fields of a word (R91). -/
def fieldsOf (w : Word) : CommandFields :=
  ⟨w.extractLsb' 0 8, flagC w, flagSel w, w.extractLsb' 10 22⟩

/-- A row of the command map (R93): a word `w` selects it when `w AND mask = pattern`. -/
structure Row where
  pattern : Word
  mask    : Word
  build   : Word → Instr

/-- The command map (R93). -/
def rows : List Row :=
  [ ⟨0x00000001, 0xFFFFFDFF, fun w => .stretch (flagSel w)⟩,
    ⟨0x00000002, 0xFFFFFDFF, fun w => .genperm (flagSel w)⟩,
    ⟨0x00000003, 0xFFFFFFFF, fun _ => .encb⟩,
    ⟨0x00000004, 0xFFFFFFFF, fun _ => .decb⟩,
    ⟨0x00000005, 0xFFFFFFFF, fun _ => .encblk⟩,
    ⟨0x00000006, 0xFFFFFFFF, fun _ => .decblk⟩,
    ⟨0x00000007, 0xFFFFFEFF, fun w => .encode (flagC w)⟩,
    ⟨0x00000008, 0xFFFFFEFF, fun w => .decode (flagC w)⟩,
    ⟨0x00000009, 0xFFFFFEFF, fun w => .senc (flagC w)⟩,
    ⟨0x0000000A, 0xFFFFFEFF, fun w => .sdec (flagC w)⟩,
    ⟨0x0000000F, 0xFFFFFFFF, fun _ => .abort⟩ ]

/-- The reason a word that selects no row is illegal, in the order of R94's list read from the fields upward. -/
def rejection (w : Word) : DecodeError :=
  let f := fieldsOf w
  if !f.reservedClear then .reservedBits
  else if !f.assigned then .unassignedOpcode
  else if !f.compressAccepted then .compressNotAccepted
  else .selectNotAccepted

/-- The command a word stands for (R93), or why there is none (R94). Total (R95). -/
def decode (w : Word) : Except DecodeError Instr :=
  match rows.find? (fun r => w &&& r.mask == r.pattern) with
  | some r => .ok (r.build w)
  | none => .error (rejection w)

/-- The word with these fields (R91). -/
def wordOf (f : CommandFields) : Word :=
  f.rsv ++ BitVec.ofBool f.sel ++ BitVec.ofBool f.c ++ f.opc

/-- The one word of a command (R93, R98). -/
def encode (i : Instr) : Word := wordOf i.fields

/-- The ABORT word, the one word a busy engine looks at (44_control.md R245). -/
def abortWord : Word := 0x0000000F

/-- The command the decoder reads from a table word: the word itself, whose bits above `nbits` are 0. -/
def decodeTableWord (nbits w : Nat) : Option Instr :=
  (decode (BitVec.ofNat 32 (w % 2 ^ nbits))).toOption

end Sys2Proof
end

