-- ==== Sys2Proof/Config.lean ====
section
/-!
DEFINITION. What an implementation of vigenere CORE fixes: the constants of spec/00_scope.md R6, the open parameters of R7 to
R10 with the laws the spec states of them, and the values the spec leaves free (spec/93_implementation_defined.md U5, U6).
-/

namespace Sys2Proof

/-- The four byte buffers (20_memory.md R60). -/
inductive Space where
  | key | bkey | perm | iperm
deriving DecidableEq, Repr

/-- BLOCK_SIZE (00_scope.md R6). -/
def blockSize : Nat := 8192

/-- ALPHABET (00_scope.md R6). -/
def alphabet : Nat := 256

/-- DIGEST_BYTES (00_scope.md R6). -/
def digestBytes : Nat := 64

/-- EVENT_DIV (00_scope.md R6). -/
def eventDiv : Nat := 20

/-- An instantiation of the open parameters. A capacity `none` is the spec's infinity. The default values only show that the
laws can be met together; `Config.params` below has no value that anything can see. -/
structure Params where
  /-- `PRNG.G`: generator states (R8). -/
  G : Type := Unit
  /-- `HASH512`: any finite byte sequence, the empty one included, to 64 bytes (R7). -/
  hash512 : Bytes → Vector Byte digestBytes := fun _ => Vector.replicate digestBytes 0
  /-- `PRNG.seed`: a generator state from raw digest bytes (R8). -/
  seed : Vector Byte digestBytes → G := by exact fun _ => ()
  /-- `PRNG.bits`: draws `k` bits as a number, with the next state (R8). -/
  bits : G → Nat → Nat × G := fun g _ => (0, g)
  /-- `PRNG.below`: a draw below the bound, with the next state (R8). -/
  below : G → Nat → Nat × G := fun g _ => (0, g)
  /-- The range law of `PRNG.bits` (R8); for `k = 0` it says the value is 0. -/
  bits_lt : ∀ g k, (bits g k).1 < 2 ^ k := by intros; positivity
  /-- The range law of `PRNG.below` (R8). -/
  below_lt : ∀ g n, 1 ≤ n → (below g n).1 < n := by intros; omega
  /-- `COMPRESS` (R9). -/
  compress : Bytes → Bytes := id
  /-- `DECOMPRESS`: `none` on a malformed stream (R9). -/
  decompress : Bytes → Option Bytes := some
  /-- Losslessness, the one law assumed of the compressor (R9). -/
  lossless : ∀ x, decompress (compress x) = some x := by intros; rfl
  /-- `KEY_MAX`, the capacity of the KEY buffer (R10). -/
  keyMax : Option Nat := none
  /-- `KEY_MAX >= 1` (R10). -/
  keyMax_pos : ∀ n ∈ keyMax, 1 ≤ n := by simp
  /-- `IN_DEPTH` (R10). -/
  inDepth : Option Nat := none
  /-- `IN_DEPTH >= 1` (R10). -/
  inDepth_pos : ∀ n ∈ inDepth, 1 ≤ n := by simp
  /-- `OUT_DEPTH` (R10). -/
  outDepth : Option Nat := none
  /-- `OUT_DEPTH >= 1` (R10). -/
  outDepth_pos : ∀ n ∈ outDepth, 1 ≤ n := by simp
  /-- `EVT_DEPTH` (R10). -/
  evtDepth : Option Nat := none
  /-- `EVT_DEPTH >= 1` (R10). -/
  evtDepth_pos : ∀ n ∈ evtDepth, 1 ≤ n := by simp
  /-- FREE VALUE: what a buffer byte holds after the `n`-th reset until something writes it (10_state.md R46, U6). -/
  resetByte : Nat → Space → Nat → Byte := fun _ _ _ => 0
  /-- FREE VALUE: what the `n`-th unspecified host read of a register returns (20_memory.md R69, U5). -/
  freeNumber : Nat → Nat → Nat := fun _ _ => 0
  /-- FREE VALUE: what the `n`-th unspecified host read of a buffer byte returns (20_memory.md R69, U5). -/
  freeByte : Nat → Space → Nat → Byte := fun _ _ _ => 0
deriving Inhabited

/-- The instantiation the machine is built with: uninterpreted, so whatever is proved of the machine holds for every one. -/
opaque Config.params : Params

end Sys2Proof
end

