-- ==== Sys2Proof/Machine/State.lean ====
section
/-!
DEFINITION. The state of vigenere CORE as plain data (spec/10_state.md R20 to R46), the host's moves (spec/30_encoding.md R99),
the reasons a step can stop, and the state after reset (R46). No field holds a function.
-/

namespace Sys2Proof.Machine

/-- The values of STATUS.ERR (60_exceptions.md R250). -/
inductive ErrCode where
  | noError | zeroKey | decodeFailed | illegalCmd | keyShort | lenRange | noTable
deriving DecidableEq, Repr

/-- The fields of STATUS (10_state.md R23). Bits 31:9 do not exist here; they read as 0 (log entry 15). -/
structure Status where
  busy     : Bool
  done     : Bool
  pvalid   : Bool
  abortreq : Bool
  err      : ErrCode
  aborted  : Bool
deriving DecidableEq, Repr

/-- A progress record `(FNUM, FDEN, IDX, TOT)` (43_streampipeline.md R206). -/
structure Progress where
  fnum : Nat
  fden : Nat
  idx  : Nat
  tot  : Nat
deriving DecidableEq, Repr

/-- One push of the engine: a byte to OUT or a record to EVT (20_memory.md R70). -/
inductive Push where
  | byte (b : Byte)
  | record (r : Progress)
deriving DecidableEq, Repr

/-- One access of the host (30_encoding.md R99, 20_memory.md R65), or the reset input (70_reset_and_hazards.md R290). -/
inductive HostMove where
  /-- `wr REG, v`. -/
  | wr (reg v : Nat)
  /-- `rd REG`. -/
  | rd (reg : Nat)
  /-- `ldb SPACE, i, b`: one byte. -/
  | ldb (space : Space) (i : Nat) (b : Byte)
  /-- `rdb SPACE, i`: one byte. -/
  | rdb (space : Space) (i : Nat)
  /-- `push b`. -/
  | push (b : Byte)
  /-- `pop`: one byte from OUT. -/
  | pop
  /-- `popevt`: one record from EVT. -/
  | popevt
  /-- The reset input is asserted and released. -/
  | reset
deriving DecidableEq, Repr

/-- Where the document's priorKeyTail stands (10_state.md R42): before block 0 it is the key, which stays in KEY; after a block it
is the tail of that block's key. So no more than 8192 bytes of it are held beside KEY (20_memory.md R78, log entry 31). -/
inductive PriorKeyTail where
  | key
  | tail (bs : Bytes)
deriving DecidableEq, Repr

/-- Who moves next in the total order of steps (20_memory.md R73). -/
inductive Move where
  | engine
  | host (m : HostMove)
deriving DecidableEq, Repr

/-- What a host read or pop returned to the host. -/
inductive ReadData where
  | nothing
  | number (v : Nat)
  | byte (b : Byte)
  | record (r : Progress)
deriving DecidableEq, Repr

/-- A byte buffer: its bytes by index, strictly rising, none equal to what an unlisted index reads as. -/
abbrev Memory := List Host.Cell

structure State where
  /-- LCMD, read as CMD (R22, R44). -/
  lcmd   : Word
  /-- STATUS (R23). -/
  status : Status
  /-- KLEN (R25). -/
  klen   : Nat
  /-- MLEN (R26). -/
  mlen   : Nat
  /-- BKLEN (R27). -/
  bklen  : Nat
  /-- OPB (R28). -/
  opb    : BitVec 16
  /-- RES (R29). -/
  res    : Byte
  /-- OLEN (R30). -/
  olen   : Nat
  /-- BIDX (R31). -/
  bidx   : Nat
  /-- TOTB (R32). -/
  totb   : Nat
  /-- INTV (R33). -/
  intv   : Nat
  /-- KEY (R34). -/
  key    : Memory
  /-- BKEY (R35). -/
  bkey   : Memory
  /-- PERM (R36). -/
  perm   : Memory
  /-- IPERM (R37). -/
  iperm  : Memory
  /-- IN (R39), head first. -/
  inQ    : Bytes
  /-- OUT (R40), head first. -/
  outQ   : Bytes
  /-- EVT (R41), head first. -/
  evtQ   : List Progress
  /-- PKT, the document's priorKeyTail (R42). -/
  pkt    : PriorKeyTail
  /-- LTOT (R44). -/
  ltot   : Nat
  /-- ZBUF (R44). -/
  zbuf   : Bytes
  /-- The sequencer: the start step of the running SENC or SDEC has run (43_streampipeline.md R210, R213). -/
  started : Bool
  /-- The sequencer: pushes of the step in progress that wait for room (20_memory.md R70). -/
  pend   : List Push
  /-- The sequencer: the step in progress ends with `complete` once `pend` is empty (44_control.md R242). -/
  fin    : Bool
  /-- MODEL: the word the host is writing to CMD in this step (log entry 3). -/
  cmdPort : Option Word
  /-- MODEL: the moves still to come (log entry 1). -/
  sched  : List Move
  /-- MODEL: what the host's last read or pop returned (log entry 11). -/
  rdata  : ReadData
  /-- MODEL: how many resets have happened, the argument of the free reset contents (log entry 9). -/
  resets : Nat
  /-- MODEL: how many unspecified reads have happened, the argument of their free values (log entry 10). -/
  freeReads : Nat
deriving DecidableEq, Repr

/-- Reasons a step stops the machine. The spec has none: its errors are codes in STATUS and the machine goes on. -/
inductive Fault where
  /-- Raised by the engine's move when BUSY = 1 and LCMD holds no legal word, a state no run reaches (log entry 14). Safe. -/
  | noRunningCommand
deriving DecidableEq, Repr

/-- Reasons the model has no meaning for a command. -/
inductive Refusal where
  /-- Raised by `exec` for a command without a meaning; no command of this model is one. Safe. -/
  | notModelled (mnemonic : String)
deriving DecidableEq, Repr

/-- STATUS after reset: 0 (R46). -/
def Status.reset : Status :=
  { busy := false, done := false, pvalid := false, abortreq := false, err := .noError, aborted := false }

/-- The state after reset (R46, 70_reset_and_hazards.md R290). The four buffers list nothing: their contents are free values.
The model's own fields start empty (log entry 23). -/
def State.reset : State :=
  { lcmd := 0, status := Status.reset, klen := 0, mlen := 0, bklen := 0, opb := 0, res := 0, olen := 0, bidx := 0, totb := 0,
    intv := 0, key := [], bkey := [], perm := [], iperm := [], inQ := [], outQ := [], evtQ := [], pkt := .tail [], ltot := 0,
    zbuf := [], started := false, pend := [], fin := false, cmdPort := none, sched := [], rdata := .nothing, resets := 0,
    freeReads := 0 }

end Sys2Proof.Machine
end

