-- ==== Sys2Proof/Machine/Flags.lean ====
section
/-!
DEFINITION. Every flag of the machine: the STATUS register as the host reads it, the code of each error, and what each event
does to the flags (spec/10_state.md R23, spec/44_control.md R240, R242, R243, R245, spec/60_exceptions.md R250, R262, R263).
-/

namespace Sys2Proof.Machine

/-- The code of an error (60_exceptions.md R250). -/
def ErrCode.code : ErrCode → BitVec 4
  | .noError => 0
  | .zeroKey => 1
  | .decodeFailed => 2
  | .illegalCmd => 3
  | .keyShort => 4
  | .lenRange => 5
  | .noTable => 6

/-- STATUS as the host reads it: bit 0 BUSY, 1 DONE, 2 PVALID, 3 ABORTREQ, 7:4 ERR, 8 ABORTED, 31:9 read as 0 (R23). -/
def Status.word (f : Status) : Word :=
  0#23 ++ BitVec.ofBool f.aborted ++ f.err.code ++ BitVec.ofBool f.abortreq ++ BitVec.ofBool f.pvalid ++
    BitVec.ofBool f.done ++ BitVec.ofBool f.busy

/-- A CMD write while idle clears DONE, ERR and ABORTED (44_control.md R240, 60_exceptions.md R263). -/
def Status.cleared (f : Status) : Status := { f with done := false, err := .noError, aborted := false }

/-- Acceptance of a command that passes its checks sets BUSY (R240). -/
def Status.begun (f : Status) : Status := { f with busy := true }

/-- Completion (44_control.md R242). -/
def Status.completed (f : Status) : Status := { f with busy := false, done := true, abortreq := false }

/-- Error entry (60_exceptions.md R262). -/
def Status.failed (e : ErrCode) (f : Status) : Status :=
  { f with err := e, busy := false, done := true, abortreq := false }

/-- The abort step of a stream command (44_control.md R243 c). -/
def Status.stopped (f : Status) : Status :=
  { f with busy := false, done := true, aborted := true, abortreq := false }

/-- The ABORT word written while busy (44_control.md R245). -/
def Status.abortRequested (f : Status) : Status := { f with abortreq := true }

/-- A table pair written by `generate` is in PERM and IPERM (R23, R38). -/
def Status.tablesValid (f : Status) : Status := { f with pvalid := true }

end Sys2Proof.Machine
end

