-- ==== Sys2Proof/Machine/Ops.lean ====
section
/-!
DEFINITION. The shared operations: the byte buffers (spec/20_memory.md R60, R61, R65), the streams and their holds (R70), error
entry and its clearing (spec/60_exceptions.md R262, R263), completion (spec/44_control.md R242), acceptance (R240), and the
shape every command has (R240, R245).
-/

namespace Sys2Proof.Machine

/-! ### Capacities -/

/-- `n` exceeds a capacity; nothing exceeds the infinite one, and 0 exceeds none (00_scope.md R10). -/
def exceeds : Nat → Option Nat → Bool
  | 0, _ => false
  | _ + 1, none => false
  | n + 1, some m => decide (m < n + 1)

/-- A queue of capacity `cap` can take one more element (20_memory.md R70). -/
def hasRoom (len : Nat) (cap : Option Nat) : Bool := !exceeds (len + 1) cap

/-- `ceil(a / b)` (00_scope.md R13). -/
def ceilDiv (a b : Nat) : Nat := (a + b - 1) / b

/-! ### Byte buffers -/

/-- One byte of a buffer; `fresh` says what an unlisted index reads as. -/
def Memory.read (fresh : Nat → Byte) (m : Memory) (i : Nat) : Byte := (m.lookup i).getD (fresh i)

/-- `MemRead(S, a, n)` (00_scope.md R15). -/
def Memory.readBytes (fresh : Nat → Byte) (m : Memory) (a n : Nat) : Bytes :=
  (List.range' a n).map (Memory.read fresh m)

/-- The entries that bytes written from index `a` on leave listed. -/
def Memory.cells (fresh : Nat → Byte) (a : Nat) : Bytes → Memory
  | [] => []
  | b :: bs => if b = fresh a then cells fresh (a + 1) bs else (a, b) :: cells fresh (a + 1) bs

/-- `MemWrite(S, a, len(bs), bs)` (00_scope.md R15). -/
def Memory.writeBytes (fresh : Nat → Byte) (m : Memory) (a : Nat) (bs : Bytes) : Memory :=
  m.filter (fun c => decide (c.1 < a)) ++ Memory.cells fresh a bs ++ m.filter (fun c => decide (a + bs.length ≤ c.1))

/-- One byte written. -/
def Memory.write (fresh : Nat → Byte) (m : Memory) (i : Nat) (b : Byte) : Memory := Memory.writeBytes fresh m i [b]

/-- The canonical form: indices strictly rising, no entry equal to what an unlisted index reads as. -/
abbrev Memory.wf (fresh : Nat → Byte) (m : Memory) : Prop :=
  m.Pairwise (fun c d => c.1 < d.1) ∧ ∀ c ∈ m, c.2 ≠ fresh c.1

/-- What the bytes of a buffer read as until something writes them: the free reset contents (10_state.md R46). -/
def State.fresh (P : Params) (s : State) (sp : Space) : Nat → Byte := P.resetByte s.resets sp

/-- The buffer of a space. -/
def State.buffer (s : State) : Space → Memory
  | .key => s.key
  | .bkey => s.bkey
  | .perm => s.perm
  | .iperm => s.iperm

/-- One byte of a buffer as the engine reads it, `S[i]` (00_scope.md R15). -/
def State.byteAt (P : Params) (s : State) (sp : Space) (i : Nat) : Byte := (s.buffer sp).read (s.fresh P sp) i

/-- The capacity of a space in bytes (20_memory.md R60). -/
def spaceSize (P : Params) : Space → Option Nat
  | .key => P.keyMax
  | .bkey => some blockSize
  | .perm => some alphabet
  | .iperm => some alphabet

/-- The index exists (20_memory.md R61). -/
def indexExists (P : Params) (sp : Space) (i : Nat) : Bool := !exceeds (i + 1) (spaceSize P sp)

/-! ### The ends of a command -/

/-- `raise E`: error entry (60_exceptions.md R262). Nothing is saved and control goes nowhere; the sequencer is idle. -/
def State.raise (e : ErrCode) (s : State) : State :=
  { s with status := s.status.failed e, started := false, pend := [], fin := false }

/-- The return from an error: there is no command for it; the next CMD write while idle clears ERR, DONE and ABORTED as the
first part of acceptance, and latches the word (60_exceptions.md R263, 44_control.md R240). -/
def State.latch (w : Word) (s : State) : State := { s with lcmd := w, status := s.status.cleared }

/-- `complete` (44_control.md R242). -/
def State.complete (s : State) : State :=
  { s with status := s.status.completed, started := false, fin := false }

/-- The abort step of a running stream command (44_control.md R243 c). -/
def State.abortStep (s : State) : State :=
  { s with status := s.status.stopped, started := false }

/-! ### Acceptance -/

/-- An acceptance check: whether it fails, and its error. -/
abbrev Check := Bool × ErrCode

/-- The first check that fails, in order (60_exceptions.md R260). -/
def firstError : List Check → Option ErrCode
  | [] => none
  | (true, e) :: _ => some e
  | (false, _) :: rest => firstError rest

/-- Acceptance of a legal word while idle (44_control.md R240). -/
def State.accept (w : Word) (checks : List Check) (s : State) : State :=
  match firstError checks with
  | some e => (s.latch w).raise e
  | none => { s.latch w with status := (s.latch w).status.begun, olen := 0 }

/-- A word that selects no row: ILLEGAL_CMD when idle (60_exceptions.md R254), ignored when busy (44_control.md R245). -/
def State.illegalWrite (w : Word) (s : State) : State :=
  if s.status.busy then s else (s.latch w).raise .illegalCmd

/-! ### Streams -/

/-- `push(OUT, bs)` as pushes to be made. -/
def pushBytes (bs : Bytes) : List Push := bs.map .byte

/-- The step in progress makes these pushes next (20_memory.md R70). -/
def State.emit (ps : List Push) (s : State) : State := { s with pend := s.pend ++ ps }

/-- The step in progress ends with `complete` (44_control.md R242). -/
def State.finish (s : State) : State := { s with fin := true }

/-- `pop(IN, n)` once its bytes are there: what is left of IN (20_memory.md R70). -/
def State.dropIn (n : Nat) (s : State) : State := { s with inQ := s.inQ.drop n }

/-- Make pushes in order until one has no room: the engine holds there (20_memory.md R70). When all are made, a step that ends
its command completes it. -/
def drainPushes (P : Params) : List Push → State → State
  | [], s => if s.fin then State.complete { s with pend := [] } else { s with pend := [] }
  | .byte b :: rest, s =>
    if hasRoom s.outQ.length P.outDepth then drainPushes P rest { s with outQ := s.outQ ++ [b] }
    else { s with pend := .byte b :: rest }
  | .record r :: rest, s =>
    if hasRoom s.evtQ.length P.evtDepth then drainPushes P rest { s with evtQ := s.evtQ ++ [r] }
    else { s with pend := .record r :: rest }

/-- The pushes of the step in progress, as far as there is room. -/
def State.drain (P : Params) (s : State) : State := drainPushes P s.pend s

/-- The stream of a push can take one more element. -/
def Push.hasSpace (P : Params) (s : State) : Push → Bool
  | .byte _ => hasRoom s.outQ.length P.outDepth
  | .record _ => hasRoom s.evtQ.length P.evtDepth

/-- Every stream that the step in progress still pushes to can take one more element: its space is there (00_scope.md R16). -/
def State.hasSpace (P : Params) (s : State) : Bool := s.pend.all (Push.hasSpace P s)

/-- A step of the engine is still making its pushes. -/
def State.pushing (s : State) : Bool := !s.pend.isEmpty || s.fin

/-! ### The shape of a command -/

/-- The running command's next step (00_scope.md R16): first the rest of a step that held while pushing; else the step `body`,
not enabled while IN holds fewer than the `need` bytes it pops, or while a stream that it pushes to is full (R16, 20_memory.md
R70, log entry 32). A step that is not enabled leaves the state as it is: the engine holds. -/
def engineStep (P : Params) (need : Nat) (body : State → State) (s : State) : State :=
  if s.pushing then s.drain P
  else if s.inQ.length < need then s
  else if (body s).hasSpace P then (body s).drain P
  else s

/-- As `engineStep` for SENC and SDEC: between steps, an abort that has been requested is the only step enabled
(44_control.md R243 c). -/
def streamStep (P : Params) (need : Nat) (body : State → State) (s : State) : State :=
  if !s.pushing && s.status.abortreq then s.abortStep else engineStep P need body s

/-- A command at a state. With a word at CMD it is being written: acceptance when idle (44_control.md R240), `onBusyWrite` when
busy (R245). With none it is the engine's turn: the command's next step when busy, nothing when idle. -/
def command (checks : List Check) (onBusyWrite own : State → State) (s : State) : State :=
  match s.cmdPort with
  | some w =>
    if s.status.busy then onBusyWrite { s with cmdPort := none }
    else State.accept w checks { s with cmdPort := none }
  | none => if s.status.busy then own s else s

/-- A CMD write while busy of any word but ABORT changes nothing (44_control.md R245). -/
def ignoredWrite (s : State) : State := s

end Sys2Proof.Machine
end

