-- ==== Sys2Proof/Machine/Functions.lean ====
section
/-!
DEFINITION. The pure functions of the four components, over an instantiation `P` of the open parameters: be_bytes (spec/00_scope.md
R14), stretch (spec/40_keystretcher.md R120), shuffle and generate (spec/41_permgen.md R140 to R142), the byte, block and
whole-message transforms (spec/42_blocktransform.md R160 to R167), and the stream definitions (spec/43_streampipeline.md R200
to R206). They are total; where a function has a precondition, no command reaches it without (log entry 21).
-/

namespace Sys2Proof.Machine

/-- `be_bytes(v, L)`: most significant byte first, zero-padded in front (00_scope.md R14). -/
def beBytes (v len : Nat) : Bytes :=
  (List.range len).map (fun i => BitVec.ofNat 8 (v / 256 ^ (len - 1 - i)))

/-- `last(s, n)` (00_scope.md R12). -/
def lastBytes (s : Bytes) (n : Nat) : Bytes := s.drop (s.length - n)

/-! ### KeyStretcher -/

/-- One round: hash, seed, draw as many bits as the part is long (40_keystretcher.md R120). -/
def nextPart (P : Params) (part : Bytes) : Bytes :=
  beBytes (P.bits (P.seed (P.hash512 part)) (8 * part.length)).1 part.length

/-- `part_1 ++ ... ++ part_n` from `part_0` (R120). -/
def partsFrom (P : Params) : Nat → Bytes → Bytes
  | 0, _ => []
  | n + 1, part => nextPart P part ++ partsFrom P n (nextPart P part)

/-- `stretch(key, t)` (R120). -/
def stretch (P : Params) (key : Bytes) (t : Nat) : Bytes :=
  (partsFrom P (ceilDiv t key.length) key).take t

/-! ### PermutationGenerator -/

/-- The identity sequence `[0, 1, ..., 255]` (41_permgen.md R140). -/
def identityTable : Bytes := (List.range alphabet).map (BitVec.ofNat 8)

/-- An entry of a table. -/
def entry (t : Bytes) (i : Nat) : Byte := t.getD i 0

/-- Exchange two positions (R141). -/
def swapAt (t : Bytes) (i j : Nat) : Bytes := (t.set i (entry t j)).set j (entry t i)

/-- The exchanges for `i, i - 1, ..., 1`, each with a fresh draw below `i + 1` (R141). -/
def shuffleFrom (P : Params) : Nat → Bytes → P.G → Bytes × P.G
  | 0, t, g => (t, g)
  | i + 1, t, g => shuffleFrom P i (swapAt t (i + 1) (P.below g (i + 2)).1) (P.below g (i + 2)).2

/-- `shuffle`: the descending exchange shuffle from 255 down to 1 (R141). -/
def shuffle (P : Params) (t : Bytes) (g : P.G) : Bytes × P.G := shuffleFrom P (alphabet - 1) t g

/-- The inverse table: `Q[v]` is the place of `v` in `P` (R142). -/
def inverseTable (t : Bytes) : Bytes :=
  (List.range alphabet).map (fun v => BitVec.ofNat 8 (t.idxOf (BitVec.ofNat 8 v)))

/-- `generate(seedKey)` (R140). -/
def generate (P : Params) (seedKey : Bytes) : Bytes × Bytes :=
  let t := (shuffle P identityTable (P.seed (P.hash512 seedKey))).1
  (t, inverseTable t)

/-! ### BlockTransform -/

/-- `encodeByte` (42_blocktransform.md R160); byte addition is modulo 256. -/
def encodeByte (plain keyByte : Byte) (table : Bytes) : Byte := entry table (plain + keyByte).toNat

/-- `decodeByte` (R161); byte subtraction is modulo 256. -/
def decodeByte (cipher keyByte : Byte) (invTable : Bytes) : Byte := entry invTable cipher.toNat - keyByte

/-- `encodeBlock` (R163). -/
def encodeBlock (block blockKey table : Bytes) : Bytes :=
  List.zipWith (fun p k => encodeByte p k table) block blockKey

/-- `decodeBlock` (R164). -/
def decodeBlock (block blockKey invTable : Bytes) : Bytes :=
  List.zipWith (fun c k => decodeByte c k invTable) block blockKey

/-- The message after optional compression (R166, R173). -/
def packed (P : Params) (c : Bool) (message : Bytes) : Bytes := if c then P.compress message else message

/-- The decoded bytes after optional decompression; `none` is DecodeFailed (R167, R174). -/
def unpacked (P : Params) (c : Bool) (bytes : Bytes) : Option Bytes := if c then P.decompress bytes else some bytes

/-- `encodeMsg` (R166). -/
def encodeMsg (P : Params) (message key : Bytes) (c : Bool) : Bytes :=
  let m := packed P c message
  let mk := stretch P key m.length
  encodeBlock m mk (generate P mk).1

/-- `decodeMsg` (R167). -/
def decodeMsg (P : Params) (message key : Bytes) (c : Bool) : Option Bytes :=
  let mk := stretch P key message.length
  unpacked P c (decodeBlock message mk (generate P mk).2)

/-! ### StreamPipeline -/

/-- `TOTB` for a total length (43_streampipeline.md R203). -/
def totalBlocks (len : Nat) : Nat := ceilDiv len blockSize

/-- `INTV` for a total block count (R203). -/
def interval (totb : Nat) : Nat := max 1 (totb / eventDiv)

/-- Block `i` of a sequence (R200). -/
def blockOf (s : Bytes) (i : Nat) : Bytes := (s.drop (blockSize * i)).take blockSize

/-- The tail of a block key that keys the next block (R201). -/
def keyTail (blockKey : Bytes) (keyLen : Nat) : Bytes := lastBytes blockKey (min keyLen blockSize)

/-- `t_(i-1)`: the key fed to `stretch` for block `i` (R201). -/
def chainKey (P : Params) (key : Bytes) : Nat → Bytes
  | 0 => key
  | i + 1 => keyTail (stretch P (chainKey P key i) blockSize) key.length

/-- `bk_i` (R201). -/
def blockKeyOf (P : Params) (key : Bytes) (i : Nat) : Bytes := stretch P (chainKey P key i) blockSize

/-- `encodeBlock(s_i, bk_i, P_i)` (R202, R204). -/
def streamEncBlock (P : Params) (s key : Bytes) (i : Nat) : Bytes :=
  encodeBlock (blockOf s i) (blockKeyOf P key i) (generate P (blockKeyOf P key i)).1

/-- `decodeBlock(s_i, bk_i, Q_i)` (R202, R204). -/
def streamDecBlock (P : Params) (s key : Bytes) (i : Nat) : Bytes :=
  decodeBlock (blockOf s i) (blockKeyOf P key i) (generate P (blockKeyOf P key i)).2

/-- `streamEncBytes(s, key)` (R204). -/
def streamEncBytes (P : Params) (s key : Bytes) : Bytes :=
  (List.range (totalBlocks s.length)).flatMap (streamEncBlock P s key)

/-- `streamDecBytes(s, key)` (R204). -/
def streamDecBytes (P : Params) (s key : Bytes) : Bytes :=
  (List.range (totalBlocks s.length)).flatMap (streamDecBlock P s key)

/-- A record is due for block `i` (R205). -/
def recordDue (i intv : Nat) : Bool := i % intv == 0

/-- The periodic record for block `i` (R206). -/
def periodicRecord (i totb : Nat) : Progress := ⟨i, totb, i, totb⟩

/-- The final record (R207). -/
def finalRecord (totb : Nat) : Progress := ⟨1, 1, totb, totb⟩

/-- The records of a stream command that completes (R205, R207). -/
def streamRecords (totb : Nat) : List Progress :=
  ((List.range totb).filter (fun i => recordDue i (interval totb))).map (fun i => periodicRecord i totb) ++ [finalRecord totb]

end Sys2Proof.Machine
end

