-- ==== Sys2Proof/Machine/Operands.lean ====
section
/-!
DEFINITION. Every operand of every command: the fixed places operands are read from and results written to (spec/30_encoding.md
R92), and how many bytes of IN the next step pops.
-/

namespace Sys2Proof.Machine

/-- `KEY[0:KLEN]` (10_state.md R25). -/
def State.keyBytes (P : Params) (s : State) : Bytes := s.key.readBytes (s.fresh P .key) 0 s.klen

/-- The value of PKT (10_state.md R42). -/
def State.chainValue (P : Params) (s : State) : Bytes :=
  match s.pkt with
  | .key => s.keyBytes P
  | .tail bs => bs

/-- `BKEY[0:BKLEN]` (10_state.md R27). -/
def State.blockKey (P : Params) (s : State) : Bytes := s.bkey.readBytes (s.fresh P .bkey) 0 s.bklen

/-- PERM as a table (10_state.md R36). -/
def State.permTable (P : Params) (s : State) : Bytes := s.perm.readBytes (s.fresh P .perm) 0 alphabet

/-- IPERM as a table (10_state.md R37). -/
def State.ipermTable (P : Params) (s : State) : Bytes := s.iperm.readBytes (s.fresh P .iperm) 0 alphabet

/-- `OPB.DATA` (10_state.md R28). -/
def State.opData (s : State) : Byte := s.opb.extractLsb' 0 8

/-- `OPB.KEYB` (10_state.md R28). -/
def State.opKey (s : State) : Byte := s.opb.extractLsb' 8 8

/-- The bytes `pop(IN, n)` returns (00_scope.md R15). -/
def State.inBytes (n : Nat) (s : State) : Bytes := s.inQ.take n

/-- `n_i`, the length of block BIDX (43_streampipeline.md R211). -/
def State.blockLen (s : State) : Nat := min blockSize (s.ltot - blockSize * s.bidx)

/-- Write a table pair from one call of `generate`; PVALID becomes 1 (10_state.md R36 to R38). -/
def State.loadTables (P : Params) (t : Bytes × Bytes) (s : State) : State :=
  { s with perm := s.perm.writeBytes (s.fresh P .perm) 0 t.1, iperm := s.iperm.writeBytes (s.fresh P .iperm) 0 t.2,
           status := s.status.tablesValid }

/-- SENC or SDEC. -/
def isStream : Instr → Bool
  | .senc _ => true
  | .sdec _ => true
  | .stretch _ => false
  | .genperm _ => false
  | .encb => false
  | .decb => false
  | .encblk => false
  | .decblk => false
  | .encode _ => false
  | .decode _ => false
  | .abort => false

/-- How many bytes of IN the command's next step pops (30_encoding.md R92, 43_streampipeline.md R210, R211, R213). -/
def inNeed (i : Instr) (s : State) : Nat :=
  match i with
  | .stretch _ => 0
  | .genperm sel => if sel then 0 else s.mlen
  | .encb => 0
  | .decb => 0
  | .encblk => s.mlen
  | .decblk => s.mlen
  | .encode _ => s.mlen
  | .decode _ => s.mlen
  | .senc c =>
    if !s.started then (if c then s.mlen else 0)
    else if s.bidx < s.totb && !c then s.blockLen else 0
  | .sdec _ => if s.started && decide (s.bidx < s.totb) then s.blockLen else 0
  | .abort => 0

end Sys2Proof.Machine
end

