-- ==== Sys2Proof/Machine/Access.lean ====
section
/-!
DEFINITION. The host's accesses (spec/20_memory.md R61, R63, R65, R67 to R70; spec/30_encoding.md R99) and the reset input
(spec/70_reset_and_hazards.md R290). A CMD write is not here: it runs a command (Sequencer.lean).
-/

namespace Sys2Proof.Machine

/-- A number cut to the width of the register that returns it (10_state.md R21); length registers are unbounded. -/
def cutToWidth (reg v : Nat) : Nat :=
  if reg = 0 then v % 2 ^ 32 else if reg = 5 then v % 2 ^ 16 else if reg = 6 then v % 2 ^ 8 else v

/-- The value of a register by number; 11 and above do not exist and read 0 (10_state.md R21). -/
def State.registerValue (s : State) (reg : Nat) : Nat :=
  if reg = 0 then s.lcmd.toNat
  else if reg = 1 then s.status.word.toNat
  else if reg = 2 then s.klen
  else if reg = 3 then s.mlen
  else if reg = 4 then s.bklen
  else if reg = 5 then s.opb.toNat
  else if reg = 6 then s.res.toNat
  else if reg = 7 then s.olen
  else if reg = 8 then s.bidx
  else if reg = 9 then s.totb
  else if reg = 10 then s.intv
  else 0

/-- A read of this register returns an unspecified value: busy, and not STATUS, and the register exists (20_memory.md R69). -/
def State.registerFree (s : State) (reg : Nat) : Bool := s.status.busy && reg != 1 && decide (reg ≤ 10)

/-- `rd REG` (20_memory.md R67 to R69). -/
def State.hostRead (P : Params) (reg : Nat) (s : State) : State :=
  if s.registerFree reg then
    { s with rdata := .number (cutToWidth reg (P.freeNumber s.freeReads reg)), freeReads := s.freeReads + 1 }
  else { s with rdata := .number (s.registerValue reg) }

/-- `wr REG, v` of a register other than CMD: KLEN, MLEN, BKLEN and OPB take it when idle; every other write, and every write
while busy, is ignored (20_memory.md R68, R69). -/
def State.hostWrite (reg v : Nat) (s : State) : State :=
  if s.status.busy then s
  else if reg = 2 then { s with klen := v }
  else if reg = 3 then { s with mlen := v }
  else if reg = 4 then { s with bklen := v }
  else if reg = 5 then { s with opb := BitVec.ofNat 16 v }
  else s

/-- `ldb SPACE, i, b` for one byte: KEY and BKEY take it when idle, at an index that exists (20_memory.md R61, R68, R69). -/
def State.hostLoad (P : Params) (sp : Space) (i : Nat) (b : Byte) (s : State) : State :=
  if s.status.busy || !indexExists P sp i then s
  else
    match sp with
    | .key => { s with key := s.key.write (s.fresh P .key) i b }
    | .bkey => { s with bkey := s.bkey.write (s.fresh P .bkey) i b }
    | .perm => s
    | .iperm => s

/-- `rdb SPACE, i` for one byte: 0 at an index that does not exist, unspecified while busy (20_memory.md R61, R68, R69). -/
def State.hostFetch (P : Params) (sp : Space) (i : Nat) (s : State) : State :=
  if !indexExists P sp i then { s with rdata := .byte 0 }
  else if s.status.busy then
    { s with rdata := .byte (P.freeByte s.freeReads sp i), freeReads := s.freeReads + 1 }
  else { s with rdata := .byte (s.byteAt P sp i) }

/-- The engine is waiting for more bytes than IN holds: it takes them as they arrive, so they do not fill the queue
(20_memory.md R70, log entry 8). Not while a requested abort is the one step that SENC or SDEC can take, since that step pops
nothing (44_control.md R243 c). -/
def State.wantsInput (s : State) : Bool :=
  if s.status.busy && !s.pushing then
    match decode s.lcmd with
    | .ok i => if isStream i && s.status.abortreq then false else s.inQ.length < inNeed i s
    | .error _ => false
  else false

/-- IN can take one more byte (10_state.md R39). -/
def State.inRoom (P : Params) (s : State) : Bool := s.wantsInput || hasRoom s.inQ.length P.inDepth

/-- The state after the reset input: every value of 10_state.md R46, fresh unspecified contents, and the host's script goes on
(70_reset_and_hazards.md R290, log entry 17). -/
def State.afterReset (s : State) : State :=
  { State.reset with sched := s.sched, rdata := s.rdata, resets := s.resets + 1, freeReads := s.freeReads }

/-- The effect of a host move; `none` when it is not enabled and the host waits: a push to a full IN, a pop from an empty OUT or
EVT (10_state.md R39 to R41). -/
def hostMove (P : Params) (m : HostMove) (s : State) : Option State :=
  match m with
  | .wr reg v => some (s.hostWrite reg v)
  | .rd reg => some (s.hostRead P reg)
  | .ldb sp i b => some (s.hostLoad P sp i b)
  | .rdb sp i => some (s.hostFetch P sp i)
  | .push b => if s.inRoom P then some { s with inQ := s.inQ ++ [b] } else none
  | .pop =>
    match s.outQ with
    | [] => none
    | b :: rest => some { s with outQ := rest, rdata := .byte b }
  | .popevt =>
    match s.evtQ with
    | [] => none
    | r :: rest => some { s with evtQ := rest, rdata := .record r }
  | .reset => some s.afterReset

end Sys2Proof.Machine
end

