-- ==== Sys2Proof/Machine/BlockTransform.lean ====
section
/-!
DEFINITION. BlockTransform: the commands ENCB, DECB, ENCBLK, DECBLK, ENCODE, DECODE (spec/42_blocktransform.md R169 to R174).
The functions behind them are in Functions.lean.
-/

namespace Sys2Proof.Machine

/-! ### Checks (60_exceptions.md R260) -/

/-- The check of ENCB and DECB. -/
def byteChecks (s : State) : List Check := [(!s.status.pvalid, .noTable)]

/-- The checks of ENCBLK and DECBLK. -/
def blockChecks (s : State) : List Check :=
  [ (decide (blockSize < s.mlen), .lenRange),
    (decide (blockSize < s.bklen), .lenRange),
    (s.bklen == 0, .zeroKey),
    (!s.status.pvalid, .noTable),
    (decide (s.bklen < s.mlen), .keyShort) ]

/-- The checks of ENCODE, DECODE, SENC and SDEC. -/
def keyedChecks (P : Params) (s : State) : List Check :=
  [ (exceeds s.klen P.keyMax, .lenRange),
    (s.klen == 0, .zeroKey) ]

/-! ### Steps -/

/-- The one step of ENCB (R169). -/
def encbBody (P : Params) (s : State) : State :=
  State.finish { s with res := encodeByte s.opData s.opKey (s.permTable P) }

/-- The one step of DECB (R170). -/
def decbBody (P : Params) (s : State) : State :=
  State.finish { s with res := decodeByte s.opData s.opKey (s.ipermTable P) }

/-- The one step of ENCBLK (R171). -/
def encblkBody (P : Params) (s : State) : State :=
  let out := encodeBlock (s.inBytes s.mlen) (s.blockKey P) (s.permTable P)
  State.finish (State.emit (pushBytes out) { s.dropIn s.mlen with olen := s.mlen })

/-- The one step of DECBLK (R172). -/
def decblkBody (P : Params) (s : State) : State :=
  let out := decodeBlock (s.inBytes s.mlen) (s.blockKey P) (s.ipermTable P)
  State.finish (State.emit (pushBytes out) { s.dropIn s.mlen with olen := s.mlen })

/-- The one step of ENCODE (R173). -/
def encodeBody (P : Params) (c : Bool) (s : State) : State :=
  let m := packed P c (s.inBytes s.mlen)
  let mk := stretch P (s.keyBytes P) m.length
  let t := generate P mk
  State.finish (State.emit (pushBytes (encodeBlock m mk t.1)) { (s.dropIn s.mlen).loadTables P t with olen := m.length })

/-- The one step of DECODE (R174). DECODE_FAILED comes after the input is consumed and the tables are written. -/
def decodeBody (P : Params) (c : Bool) (s : State) : State :=
  let mk := stretch P (s.keyBytes P) s.mlen
  let t := generate P mk
  let s' := (s.dropIn s.mlen).loadTables P t
  match unpacked P c (decodeBlock (s.inBytes s.mlen) mk t.2) with
  | some p => State.finish (State.emit (pushBytes p) { s' with olen := p.length })
  | none => s'.raise .decodeFailed

/-! ### Commands under an instantiation of the parameters -/

/-- ENCB. -/
def encbCommand (P : Params) (s : State) : State :=
  command (byteChecks s) ignoredWrite (engineStep P (inNeed .encb s) (encbBody P)) s

/-- DECB. -/
def decbCommand (P : Params) (s : State) : State :=
  command (byteChecks s) ignoredWrite (engineStep P (inNeed .decb s) (decbBody P)) s

/-- ENCBLK. -/
def encblkCommand (P : Params) (s : State) : State :=
  command (blockChecks s) ignoredWrite (engineStep P (inNeed .encblk s) (encblkBody P)) s

/-- DECBLK. -/
def decblkCommand (P : Params) (s : State) : State :=
  command (blockChecks s) ignoredWrite (engineStep P (inNeed .decblk s) (decblkBody P)) s

/-- ENCODE. -/
def encodeCommand (P : Params) (c : Bool) (s : State) : State :=
  command (keyedChecks P s) ignoredWrite (engineStep P (inNeed (.encode c) s) (encodeBody P c)) s

/-- DECODE. -/
def decodeCommand (P : Params) (c : Bool) (s : State) : State :=
  command (keyedChecks P s) ignoredWrite (engineStep P (inNeed (.decode c) s) (decodeBody P c)) s

/-! ### Meanings -/

/-- ENCB (R169). -/
def execEncb (s : State) : Host.Outcome State Fault Refusal := .next (encbCommand Config.params s)

/-- DECB (R170). -/
def execDecb (s : State) : Host.Outcome State Fault Refusal := .next (decbCommand Config.params s)

/-- ENCBLK (R171). -/
def execEncblk (s : State) : Host.Outcome State Fault Refusal := .next (encblkCommand Config.params s)

/-- DECBLK (R172). -/
def execDecblk (s : State) : Host.Outcome State Fault Refusal := .next (decblkCommand Config.params s)

/-- ENCODE (R173). -/
def execEncode (c : Bool) (s : State) : Host.Outcome State Fault Refusal := .next (encodeCommand Config.params c s)

/-- DECODE (R174). -/
def execDecode (c : Bool) (s : State) : Host.Outcome State Fault Refusal := .next (decodeCommand Config.params c s)

end Sys2Proof.Machine
end

