-- ==== Sys2Proof/Machine/Control.lean ====
section
/-!
DEFINITION. The control command ABORT (spec/44_control.md R243, R245, R246). Its step inside a running SENC or SDEC (R243 c) is
`streamStep` in Ops.lean.
-/

namespace Sys2Proof.Machine

/-- The one step of ABORT accepted while idle: `complete` (R243 a). -/
def abortBody (s : State) : State := State.finish s

/-- ABORT written while busy asks for an abort, and nothing else: LCMD keeps the running command (R243 b, R245). -/
def abortWhileBusy (s : State) : State := { s with status := s.status.abortRequested }

/-- ABORT under an instantiation of the parameters. It has no checks. -/
def abortCommand (P : Params) (s : State) : State :=
  command [] abortWhileBusy (engineStep P (inNeed .abort s) abortBody) s

/-- ABORT (R243). -/
def execAbort (s : State) : Host.Outcome State Fault Refusal := .next (abortCommand Config.params s)

end Sys2Proof.Machine
end

