-- ==== Sys2Proof/Machine/KeyStretcher.lean ====
section
/-!
DEFINITION. KeyStretcher: the command STRETCH (spec/40_keystretcher.md R124). The function `stretch` is in Functions.lean.
-/

namespace Sys2Proof.Machine

/-- The checks of STRETCH (60_exceptions.md R260). -/
def stretchChecks (P : Params) (sel : Bool) (s : State) : List Check :=
  [ (exceeds s.klen P.keyMax, .lenRange),
    (sel && decide (blockSize < s.mlen), .lenRange),
    (s.klen == 0, .zeroKey) ]

/-- The one step of STRETCH (R124). -/
def stretchBody (P : Params) (sel : Bool) (s : State) : State :=
  let e := stretch P (s.keyBytes P) s.mlen
  if sel then
    State.finish { s with bkey := s.bkey.writeBytes (s.fresh P .bkey) 0 e, bklen := s.mlen }
  else
    State.finish (State.emit (pushBytes e) { s with olen := s.mlen })

/-- STRETCH under an instantiation of the parameters. -/
def stretchCommand (P : Params) (sel : Bool) (s : State) : State :=
  command (stretchChecks P sel s) ignoredWrite (engineStep P (inNeed (.stretch sel) s) (stretchBody P sel)) s

/-- STRETCH (R124). -/
def execStretch (sel : Bool) (s : State) : Host.Outcome State Fault Refusal :=
  .next (stretchCommand Config.params sel s)

end Sys2Proof.Machine
end

