-- ==== Sys2Proof/Machine/PermutationGenerator.lean ====
section
/-!
DEFINITION. PermutationGenerator: the command GENPERM (spec/41_permgen.md R145). The function `generate` is in Functions.lean.
-/

namespace Sys2Proof.Machine

/-- The checks of GENPERM (60_exceptions.md R260). -/
def genpermChecks (sel : Bool) (s : State) : List Check :=
  [ (sel && decide (blockSize < s.bklen), .lenRange),
    ((if sel then s.bklen else s.mlen) == 0, .zeroKey) ]

/-- The one step of GENPERM (R145). -/
def genpermBody (P : Params) (sel : Bool) (s : State) : State :=
  if sel then State.finish (s.loadTables P (generate P (s.blockKey P)))
  else State.finish ((s.dropIn s.mlen).loadTables P (generate P (s.inBytes s.mlen)))

/-- GENPERM under an instantiation of the parameters. -/
def genpermCommand (P : Params) (sel : Bool) (s : State) : State :=
  command (genpermChecks sel s) ignoredWrite (engineStep P (inNeed (.genperm sel) s) (genpermBody P sel)) s

/-- GENPERM (R145). -/
def execGenperm (sel : Bool) (s : State) : Host.Outcome State Fault Refusal :=
  .next (genpermCommand Config.params sel s)

end Sys2Proof.Machine
end

