-- ==== Sys2Proof/Machine/StreamPipeline.lean ====
section
/-!
DEFINITION. StreamPipeline: the commands SENC and SDEC as start, block and final steps (spec/43_streampipeline.md R210 to R214),
with the abort step between them (spec/44_control.md R243 c).
-/

namespace Sys2Proof.Machine

/-- What the start steps of SENC and SDEC share, for a total length `len` (R210, R213). PKT becomes `KEY[0:KLEN]`,
which stands in KEY for as long as the command runs: no second copy is held (20_memory.md R77, R78, log entry 31). -/
def State.streamStart (len : Nat) (s : State) : State :=
  { s with ltot := len, totb := totalBlocks len, intv := interval (totalBlocks len), bidx := 0, pkt := .key, started := true }

/-- Load the block key of block BIDX, its tail and its tables (R201, R202, R211). -/
def State.loadBlock (P : Params) (bk : Bytes) (s : State) : State :=
  State.loadTables P (generate P bk)
    { s with bkey := s.bkey.writeBytes (s.fresh P .bkey) 0 bk, bklen := blockSize, pkt := .tail (keyTail bk s.klen) }

/-- The record of block BIDX, when one is due (R205, R206). -/
def State.dueRecords (s : State) : List Push :=
  if recordDue s.bidx s.intv then [.record (periodicRecord s.bidx s.totb)] else []

/-- The start step of SENC (R210). -/
def sencStart (P : Params) (c : Bool) (s : State) : State :=
  if c then
    let z := P.compress (s.inBytes s.mlen)
    State.streamStart z.length { s.dropIn s.mlen with zbuf := z }
  else State.streamStart s.mlen s

/-- The block step of SENC (R211). -/
def sencBlock (P : Params) (c : Bool) (s : State) : State :=
  let n := s.blockLen
  let b := if c then (s.zbuf.drop (blockSize * s.bidx)).take n else s.inBytes n
  let bk := stretch P (s.chainValue P) blockSize
  let s' := State.loadBlock P bk (if c then s else s.dropIn n)
  State.emit (pushBytes (encodeBlock b bk (generate P bk).1) ++ s.dueRecords)
    { s' with olen := s.olen + n, bidx := s.bidx + 1 }

/-- The final step of SENC (R212). -/
def sencFinal (s : State) : State := State.finish (State.emit [.record (finalRecord s.totb)] s)

/-- The start step of SDEC (R213). -/
def sdecStart (s : State) : State := State.streamStart s.mlen { s with zbuf := [] }

/-- The block step of SDEC (R213). -/
def sdecBlock (P : Params) (c : Bool) (s : State) : State :=
  let n := s.blockLen
  let bk := stretch P (s.chainValue P) blockSize
  let d := decodeBlock (s.inBytes n) bk (generate P bk).2
  let s' := State.loadBlock P bk (s.dropIn n)
  if c then State.emit s.dueRecords { s' with zbuf := s.zbuf ++ d, bidx := s.bidx + 1 }
  else State.emit (pushBytes d ++ s.dueRecords) { s' with olen := s.olen + n, bidx := s.bidx + 1 }

/-- The final step of SDEC (R213 for C = 0, R214 for C = 1). -/
def sdecFinal (P : Params) (c : Bool) (s : State) : State :=
  if c then
    match P.decompress s.zbuf with
    | some p => State.finish (State.emit (pushBytes p ++ [.record (finalRecord s.totb)]) { s with olen := p.length })
    | none => s.raise .decodeFailed
  else State.finish (State.emit [.record (finalRecord s.totb)] s)

/-- The steps of SENC in order: start, then one block step for each block, then final (R210 to R212). -/
def sencBody (P : Params) (c : Bool) (s : State) : State :=
  if !s.started then sencStart P c s else if s.bidx < s.totb then sencBlock P c s else sencFinal s

/-- The steps of SDEC in order (R213, R214). -/
def sdecBody (P : Params) (c : Bool) (s : State) : State :=
  if !s.started then sdecStart s else if s.bidx < s.totb then sdecBlock P c s else sdecFinal P c s

/-- SENC under an instantiation of the parameters. -/
def sencCommand (P : Params) (c : Bool) (s : State) : State :=
  command (keyedChecks P s) ignoredWrite (streamStep P (inNeed (.senc c) s) (sencBody P c)) s

/-- SDEC under an instantiation of the parameters. -/
def sdecCommand (P : Params) (c : Bool) (s : State) : State :=
  command (keyedChecks P s) ignoredWrite (streamStep P (inNeed (.sdec c) s) (sdecBody P c)) s

/-- SENC (R210 to R212). -/
def execSenc (c : Bool) (s : State) : Host.Outcome State Fault Refusal := .next (sencCommand Config.params c s)

/-- SDEC (R213, R214). -/
def execSdec (c : Bool) (s : State) : Host.Outcome State Fault Refusal := .next (sdecCommand Config.params c s)

end Sys2Proof.Machine
end

