-- ==== Sys2Proof/Machine/Dispatch.lean ====
section
/-!
DEFINITION. The meaning of every command: one arm for each constructor of Instr.
-/

namespace Sys2Proof.Machine

def exec (i : Instr) (s : State) : Host.Outcome State Fault Refusal :=
  match i with
  | .stretch sel => Sys2Proof.Machine.execStretch sel s
  | .genperm sel => Sys2Proof.Machine.execGenperm sel s
  | .encb => Sys2Proof.Machine.execEncb s
  | .decb => Sys2Proof.Machine.execDecb s
  | .encblk => Sys2Proof.Machine.execEncblk s
  | .decblk => Sys2Proof.Machine.execDecblk s
  | .encode c => Sys2Proof.Machine.execEncode c s
  | .decode c => Sys2Proof.Machine.execDecode c s
  | .senc c => Sys2Proof.Machine.execSenc c s
  | .sdec c => Sys2Proof.Machine.execSdec c s
  | .abort => Sys2Proof.Machine.execAbort s

end Sys2Proof.Machine
end

