-- ==== Sys2Proof/Machine/Sequencer.lean ====
section
/-!
DEFINITION. Who moves, and what a move does: a CMD write (spec/44_control.md R240, R245), the engine's next step (spec/00_scope.md
R16), and the host's other moves, in the order the schedule gives (spec/20_memory.md R73).
-/

namespace Sys2Proof.Machine

/-- The word at CMD is written: the command it stands for, or an illegal write (44_control.md R240, R245). -/
def writeCommand (w : Word) (s : State) : Host.Outcome State Fault Refusal :=
  match decode w with
  | .ok i => exec i { s with cmdPort := some w }
  | .error _ => .next (State.illegalWrite w { s with cmdPort := none })

/-- The engine moves: the running command's next step when busy, nothing when idle. -/
def engineMove (s : State) : Host.Outcome State Fault Refusal :=
  if s.status.busy then
    match decode s.lcmd with
    | .ok i => exec i s
    | .error _ => .fault .noRunningCommand
  else .next s

/-- The host moves; while its move is not enabled it waits and the engine moves (20_memory.md R70, log entry 2). `s` still has
the move at the head of its schedule, `rest` is what follows. -/
def hostTurn (m : HostMove) (rest : List Move) (s : State) : Host.Outcome State Fault Refusal :=
  match m with
  | .wr 0 v => writeCommand (BitVec.ofNat 32 v) { s with sched := rest }
  | m =>
    match hostMove Config.params m { s with sched := rest } with
    | some s' => .next s'
    | none => engineMove s

/-- The next move of the total order: a word already at CMD first, then the schedule's head, and the engine when the schedule is
empty. -/
def nextMove (s : State) : Host.Outcome State Fault Refusal :=
  match s.cmdPort with
  | some w => writeCommand w s
  | none =>
    match s.sched with
    | [] => engineMove s
    | .engine :: rest => engineMove { s with sched := rest }
    | .host m :: rest => hostTurn m rest s

/-- The state with a word standing at CMD of an idle engine (log entry 24). -/
def State.presentWord (w : Word) (s : State) : State :=
  { s with cmdPort := some w, status := { s.status with busy := false }, started := false, pend := [], fin := false }

end Sys2Proof.Machine
end

