-- ==== Sys2Proof/Machine/Step.lean ====
section
/-!
DEFINITION. One step of the machine: one atomic step of the engine or one access of the host (spec/20_memory.md R73).
-/

namespace Sys2Proof.Machine

/-- One step. -/
def step (s : State) : Host.Outcome State Fault Refusal := nextMove s

/-- The state whose next step takes the command word `w` from the host: the block has no instruction memory, so a word is
"fetched" by being written to CMD of an idle engine (spec/10_state.md R22, R24; log entries 3 and 24). -/
def State.withFetchWord (s : State) (nbits w : Nat) : State := s.presentWord (BitVec.ofNat 32 (w % 2 ^ nbits))

end Sys2Proof.Machine
end

