-- ==== Sys2Proof/Safety.lean ====
section
/-!
DEFINITION. What counts as a good state, in the terms the statements use: the invariant of every state that a run reaches
(spec/10_state.md R23, R31 to R33, R38, R42; spec/43_streampipeline.md R201, R203, R206), and the outcomes of a step.
-/

namespace Sys2Proof.Machine

/-- Two 256-entry tables are inverse bijections of the byte alphabet (10_state.md R38). -/
def TablesInverse (p q : Bytes) : Prop :=
  p.length = alphabet ∧ q.length = alphabet ∧ p.Nodup ∧
    (∀ v : Byte, entry p (entry q v.toNat).toNat = v) ∧ (∀ i : Byte, entry q (entry p i.toNat).toNat = i)

/-- The acceptance checks of a command (60_exceptions.md R260). -/
def checksOf (P : Params) (i : Instr) (s : State) : List Check :=
  match i with
  | .stretch sel => stretchChecks P sel s
  | .genperm sel => genpermChecks sel s
  | .encb => byteChecks s
  | .decb => byteChecks s
  | .encblk => blockChecks s
  | .decblk => blockChecks s
  | .encode _ => keyedChecks P s
  | .decode _ => keyedChecks P s
  | .senc _ => keyedChecks P s
  | .sdec _ => keyedChecks P s
  | .abort => []

/-- A record is well formed (43_streampipeline.md R206). -/
def Progress.ok (r : Progress) : Prop := 1 ≤ r.fden ∧ r.fnum ≤ r.fden

/-- A number of elements fits a capacity. -/
def fits (n : Nat) (cap : Option Nat) : Prop := ∀ m ∈ cap, n ≤ m

/-- The bytes among pushes, in order. -/
def pushedBytes : List Push → Bytes
  | [] => []
  | .byte b :: rest => b :: pushedBytes rest
  | .record _ :: rest => pushedBytes rest

/-- The records among pushes, in order. -/
def pushedRecords : List Push → List Progress
  | [] => []
  | .byte _ :: rest => pushedRecords rest
  | .record r :: rest => r :: pushedRecords rest

/-- The engine's turn, busy and between two steps: nothing stands at CMD and no push of an earlier step is left. -/
def State.atStep (s : State) : Prop :=
  s.cmdPort = none ∧ s.status.busy = true ∧ s.pend = [] ∧ s.fin = false

/-- The invariant of the machine. -/
structure State.Inv (P : Params) (s : State) : Prop where
  /-- Every buffer has its canonical form. -/
  buffersCanonical : ∀ sp, (s.buffer sp).wf (s.fresh P sp)
  /-- No buffer lists an index that does not exist (20_memory.md R61). -/
  buffersInside : ∀ sp, ∀ c ∈ s.buffer sp, indexExists P sp c.1 = true
  /-- BUSY and DONE are never both 1 (10_state.md R23). -/
  busyNotDone : s.status.busy = true → s.status.done = false
  /-- The table invariant (10_state.md R38). -/
  tables : s.status.pvalid = true → TablesInverse (s.permTable P) (s.ipermTable P)
  /-- An idle engine has no command in progress and no abort requested. -/
  idle : s.status.busy = false →
    s.started = false ∧ s.pend = [] ∧ s.fin = false ∧ s.status.abortreq = false
  /-- A busy engine runs a legal command that passed its checks, with no error recorded (44_control.md R240). -/
  running : s.status.busy = true →
    s.status.err = .noError ∧ s.status.aborted = false ∧
      ∃ i, decode s.lcmd = .ok i ∧ firstError (checksOf P i s) = none ∧ (s.started = true → isStream i = true)
  /-- A started stream command keeps its totals, its progress and its key chain (43_streampipeline.md R201, R203). -/
  stream : s.started = true →
    s.bidx ≤ s.totb ∧ s.totb = totalBlocks s.ltot ∧ s.intv = interval s.totb ∧
      s.chainValue P = chainKey P (s.keyBytes P) s.bidx ∧ 1 ≤ (s.chainValue P).length
  /-- No more than one block key's length of PKT is held beside KEY (20_memory.md R78). -/
  pktBounded : ∀ bs, s.pkt = .tail bs → bs.length ≤ blockSize
  /-- A stream command with C = 0 holds at most one block of output (R78). -/
  oneBlock : ∀ i, decode s.lcmd = .ok i → i = .senc false ∨ i = .sdec false → (pushedBytes s.pend).length ≤ blockSize
  /-- Every record in EVT or on its way there is well formed (43_streampipeline.md R206). -/
  records : (∀ r ∈ s.evtQ, r.ok) ∧ (∀ r, Push.record r ∈ s.pend → r.ok)
  /-- The output queues keep their capacities (10_state.md R40, R41). -/
  queues : fits s.outQ.length P.outDepth ∧ fits s.evtQ.length P.evtDepth

/-- A step goes on: it neither faults nor is refused. -/
def Proceeds (o : Host.Outcome State Fault Refusal) : Prop := ∃ t, o = .next t

/-- OUT and EVT after the host has popped all that is in them. -/
def State.handOver (s : State) : State := { s with outQ := [], evtQ := [] }

/-- `k` moves of the engine, the host popping all of OUT and EVT after each: the state reached, and every byte and record the host
has received, after those it had before. `none` if the engine's move did not go on. -/
def drainedRun : Nat → State → Bytes → List Progress → Option (State × Bytes × List Progress)
  | 0, s, out, evt => some (s, out, evt)
  | k + 1, s, out, evt =>
    match engineMove s with
    | .next t => drainedRun k t.handOver (out ++ t.outQ) (evt ++ t.evtQ)
    | .fault _ => none
    | .refused _ => none

end Sys2Proof.Machine
end

