-- ==== Sys2Proof/Certificates/Slice0/Obligations.lean ====
section
/-!
DEFINITION. The statements for the provers, and the few terms of the spec they are written in. Each statement's docstring names
the rules of spec/ it rests on.
-/

namespace Sys2Proof.Machine

/-! ### Terms of the statements -/

/-- LEN_RANGE's causes (60_exceptions.md R255, the first column of R260). -/
def lenRangeCause (P : Params) (i : Instr) (s : State) : Prop :=
  match i with
  | .stretch sel => ¬ fits s.klen P.keyMax ∨ (sel = true ∧ 8192 < s.mlen)
  | .genperm sel => sel = true ∧ 8192 < s.bklen
  | .encb => False
  | .decb => False
  | .encblk => 8192 < s.mlen ∨ 8192 < s.bklen
  | .decblk => 8192 < s.mlen ∨ 8192 < s.bklen
  | .encode _ => ¬ fits s.klen P.keyMax
  | .decode _ => ¬ fits s.klen P.keyMax
  | .senc _ => ¬ fits s.klen P.keyMax
  | .sdec _ => ¬ fits s.klen P.keyMax
  | .abort => False

/-- ZERO_KEY's causes (R251, the second column of R260). -/
def zeroKeyCause (i : Instr) (s : State) : Prop :=
  match i with
  | .stretch _ => s.klen = 0
  | .genperm sel => (sel = false ∧ s.mlen = 0) ∨ (sel = true ∧ s.bklen = 0)
  | .encb => False
  | .decb => False
  | .encblk => s.bklen = 0
  | .decblk => s.bklen = 0
  | .encode _ => s.klen = 0
  | .decode _ => s.klen = 0
  | .senc _ => s.klen = 0
  | .sdec _ => s.klen = 0
  | .abort => False

/-- NO_TABLE's causes (R256, the third column of R260). -/
def noTableCause (i : Instr) (s : State) : Prop :=
  match i with
  | .stretch _ => False
  | .genperm _ => False
  | .encb => s.status.pvalid = false
  | .decb => s.status.pvalid = false
  | .encblk => s.status.pvalid = false
  | .decblk => s.status.pvalid = false
  | .encode _ => False
  | .decode _ => False
  | .senc _ => False
  | .sdec _ => False
  | .abort => False

/-- KEY_SHORT's causes (R257, the fourth column of R260). -/
def keyShortCause (i : Instr) (s : State) : Prop :=
  match i with
  | .stretch _ => False
  | .genperm _ => False
  | .encb => False
  | .decb => False
  | .encblk => s.bklen < s.mlen
  | .decblk => s.bklen < s.mlen
  | .encode _ => False
  | .decode _ => False
  | .senc _ => False
  | .sdec _ => False
  | .abort => False

/-- What a word that is written to CMD of an idle engine and turned away with error `e` leaves: only STATUS and LCMD change, and
nothing stands at CMD any more (R240, R262). The sequencer is idle, as it was. -/
def turnedAway (w : Word) (e : ErrCode) (s : State) : State :=
  { s with cmdPort := none, lcmd := w, started := false, pend := [], fin := false,
           status := { busy := false, done := true, pvalid := s.status.pvalid, abortreq := false, err := e, aborted := false } }

/-- What an accepted word leaves (R240). -/
def takenUp (w : Word) (s : State) : State :=
  { s with cmdPort := none, lcmd := w, olen := 0,
           status := { busy := true, done := false, pvalid := s.status.pvalid, abortreq := s.status.abortreq,
                       err := .noError, aborted := false } }

/-- STATUS after a command completes (44_control.md R242). -/
def doneStatus (f : Status) : Status := { f with busy := false, done := true, abortreq := false }

/-- STATUS after a command that wrote a table pair completes. -/
def doneWithTables (f : Status) : Status := { f with busy := false, done := true, abortreq := false, pvalid := true }

/-- Bytes `bs` stand at the start of buffer `sp` of `t`, and every other byte of it is as it was in `s`. -/
def writtenFrom (P : Params) (s t : State) (sp : Space) (bs : Bytes) : Prop :=
  ∀ j, t.byteAt P sp j = if j < bs.length then bs.getD j 0 else s.byteAt P sp j

/-- Both tables of `t` hold the pair that `generate` gives for this seed. -/
def tablesFrom (P : Params) (s t : State) (seedKey : Bytes) : Prop :=
  writtenFrom P s t .perm (generate P seedKey).1 ∧ writtenFrom P s t .iperm (generate P seedKey).2

/-- OUT takes `n` more bytes. -/
def outTakes (P : Params) (s : State) (n : Nat) : Prop := n = 0 ∨ fits (s.outQ.length + n) P.outDepth

/-- A step that ends its command with the bytes `bs` for a finite OUT that does not take them all (20_memory.md R70): those that
fit are in OUT, the others wait in their order, and BUSY stays 1. `s` is everything else the step leaves. -/
def heldPushing (P : Params) (bs : Bytes) (s : State) : State :=
  let k := P.outDepth.getD 0 - s.outQ.length
  { s with outQ := s.outQ ++ bs.take k, pend := (bs.drop k).map .byte, fin := true }

/-- No stream is full that these bytes and records go to (00_scope.md R16, log entry 32). -/
def streamsOpen (P : Params) (s : State) (bs : Bytes) (rs : List Progress) : Prop :=
  (bs ≠ [] → fits (s.outQ.length + 1) P.outDepth) ∧ (rs ≠ [] → fits (s.evtQ.length + 1) P.evtDepth)

/-- A command's meaning under an instantiation; exec runs it under the machine's own. -/
def commandUnder (P : Params) (i : Instr) (s : State) : State :=
  match i with
  | .stretch sel => stretchCommand P sel s
  | .genperm sel => genpermCommand P sel s
  | .encb => encbCommand P s
  | .decb => decbCommand P s
  | .encblk => encblkCommand P s
  | .decblk => decblkCommand P s
  | .encode c => encodeCommand P c s
  | .decode c => decodeCommand P c s
  | .senc c => sencCommand P c s
  | .sdec c => sdecCommand P c s
  | .abort => abortCommand P s

/-- The bytes that a command's next step pushes to OUT (40_keystretcher.md R124, 42_blocktransform.md R171 to R174,
43_streampipeline.md R211 to R214). -/
def stepBytes (P : Params) (i : Instr) (s : State) : Bytes :=
  let n := min 8192 (s.ltot - 8192 * s.bidx)
  let bk := stretch P (s.chainValue P) 8192
  match i with
  | .stretch sel => if sel = true then [] else stretch P (s.keyBytes P) s.mlen
  | .genperm _ => []
  | .encb => []
  | .decb => []
  | .encblk => encodeBlock (s.inQ.take s.mlen) (s.blockKey P) (s.permTable P)
  | .decblk => decodeBlock (s.inQ.take s.mlen) (s.blockKey P) (s.ipermTable P)
  | .encode c => encodeMsg P (s.inQ.take s.mlen) (s.keyBytes P) c
  | .decode c => (decodeMsg P (s.inQ.take s.mlen) (s.keyBytes P) c).getD []
  | .senc c =>
    if s.started = true ∧ s.bidx < s.totb then
      encodeBlock (if c = true then (s.zbuf.drop (8192 * s.bidx)).take n else s.inQ.take n) bk (generate P bk).1
    else []
  | .sdec c =>
    if s.started = false then []
    else if s.bidx < s.totb then (if c = true then [] else decodeBlock (s.inQ.take n) bk (generate P bk).2)
    else if c = true then (P.decompress s.zbuf).getD [] else []
  | .abort => []

/-- The records that a command's next step pushes to EVT (43_streampipeline.md R205, R207, R211 to R214). -/
def stepRecords (P : Params) (i : Instr) (s : State) : List Progress :=
  if isStream i = false ∨ s.started = false then []
  else if s.bidx < s.totb then (if s.bidx % s.intv = 0 then [⟨s.bidx, s.totb, s.bidx, s.totb⟩] else [])
  else if i = .sdec true ∧ P.decompress s.zbuf = none then [] else [⟨1, 1, s.totb, s.totb⟩]

/-- How many bytes of IN the next step of a command takes (30_encoding.md R92, 43_streampipeline.md R210, R211, R213). -/
def stepTakes (i : Instr) (s : State) : Nat :=
  match i with
  | .stretch _ => 0
  | .genperm sel => if sel = true then 0 else s.mlen
  | .encb => 0
  | .decb => 0
  | .encblk => s.mlen
  | .decblk => s.mlen
  | .encode _ => s.mlen
  | .decode _ => s.mlen
  | .senc c =>
    if c = true then (if s.started = true then 0 else s.mlen)
    else if s.started = true ∧ s.bidx < s.totb then min 8192 (s.ltot - 8192 * s.bidx) else 0
  | .sdec _ => if s.started = true ∧ s.bidx < s.totb then min 8192 (s.ltot - 8192 * s.bidx) else 0
  | .abort => 0

/-- One exchange of the shuffle (41_permgen.md R141): the table and the generator before, and the index walked to. -/
def exchange (P : Params) (tg : Bytes × P.G) (i : Nat) : Bytes × P.G :=
  let d := P.below tg.2 (i + 1)
  ((tg.1.set i (tg.1.getD d.1 0)).set d.1 (tg.1.getD i 0), d.2)

/-- A stream command that has been accepted and has all its input: the state its run starts from. -/
structure StreamReady (P : Params) (i : Instr) (s : State) : Prop where
  turn : s.atStep
  runs : decode s.lcmd = .ok i
  notStarted : s.started = false
  noAbort : s.status.abortreq = false
  noError : s.status.err = .noError
  key : 1 ≤ s.klen
  input : s.mlen ≤ s.inQ.length
  counted : s.olen = 0
  outEmpty : s.outQ = []
  evtEmpty : s.evtQ = []

/-- The periodic records of a stream of `totb` blocks (43_streampipeline.md R205, R206). -/
def periodicRecords (totb : Nat) : List Progress :=
  ((List.range totb).filter (fun i => i % interval totb = 0)).map (fun i => ⟨i, totb, i, totb⟩)

end Sys2Proof.Machine

open Sys2Proof Sys2Proof.Machine

/-! ### Encoding -/

/-- R93, R95: every command is well formed and its word decodes to it, and a word decodes to a command only if it is that
command's word: every command has one word and every legal word one command. -/
def Obligations.DecodeAndEncodeAgree : Prop :=
  (∀ i : Instr, i.wellFormed = true ∧ decode (encode i) = .ok i) ∧
    ∀ (w : Word) (i : Instr), decode w = .ok i → w = encode i

/-- R93: "The seventeen legal command words are therefore: ...". -/
def Obligations.LegalWordsAreTheSeventeen : Prop :=
  ∀ w : Word, (∃ i, decode w = .ok i) ↔
    w.toNat ∈ [0x001, 0x201, 0x002, 0x202, 0x003, 0x004, 0x005, 0x006, 0x007, 0x107, 0x008, 0x108, 0x009, 0x109, 0x00A, 0x10A,
      0x00F]

/-- R98: words written out from the notation table. -/
def Obligations.SampleWordsDecode : Prop :=
  decode 0x00000201 = .ok (.stretch true) ∧ decode 0x00000002 = .ok (.genperm false) ∧ decode 0x00000003 = .ok .encb ∧
    decode 0x00000006 = .ok .decblk ∧ decode 0x00000107 = .ok (.encode true) ∧ decode 0x00000009 = .ok (.senc false) ∧
    decode 0x0000010A = .ok (.sdec true) ∧ decode 0x0000000F = .ok .abort

/-- R94: which words are illegal, and what writing one does: idle, it ends at once with ILLEGAL_CMD and DONE = 1 and starts
nothing; busy, it is ignored. This is said of the word at CMD and of the host's scheduled write. `cmdPort`, the mark that a CMD
write is being taken, and the schedule are the model's (log entries 1 and 3). -/
def Obligations.IllegalWordsRaiseIllegalCmd : Prop :=
  ∀ w : Word,
    ((∃ e, decode w = .error e) ↔
      (w.toNat % 256 = 0 ∨ (0x0B ≤ w.toNat % 256 ∧ w.toNat % 256 ≤ 0x0E) ∨ 0x10 ≤ w.toNat % 256 ∨ w.toNat / 2 ^ 10 ≠ 0 ∨
        (w.getLsbD 8 = true ∧ ¬ (7 ≤ w.toNat % 256 ∧ w.toNat % 256 ≤ 10)) ∨
        (w.getLsbD 9 = true ∧ ¬ (w.toNat % 256 = 1 ∨ w.toNat % 256 = 2)))) ∧
    (∀ s : State, s.cmdPort = some w → (∃ e, decode w = .error e) →
      (s.status.busy = false → step s = .next (turnedAway w .illegalCmd s)) ∧
      (s.status.busy = true → step s = .next { s with cmdPort := none })) ∧
    ∀ (s : State) (rest : List Move), s.cmdPort = none → s.sched = .host (.wr 0 w.toNat) :: rest →
      (∃ e, decode w = .error e) →
      (s.status.busy = false → step s = .next (turnedAway w .illegalCmd { s with sched := rest })) ∧
      (s.status.busy = true → step s = .next { s with sched := rest })

/-! ### Sequencing -/

/-- The step runs the decoded command, and an idle engine's turn changes nothing but the schedule: a word standing at CMD, the host's CMD write at the head of the schedule (taken in the
same step, the move leaving the schedule and the word standing at CMD for it), and the engine's turn (with an empty schedule,
or by a scheduled engine move, which leaves the schedule). The schedule, the empty schedule and `cmdPort` are the model's
choice (log entries 1, 2 and 3), and so is that an idle engine's turn is a step (log entry 13); that a written value of 2^32 or
more keeps its low 32 bits is read by inference (log entry 18). -/
def Obligations.StepRunsTheDecodedCommand : Prop :=
  (∀ s w i, s.cmdPort = some w → decode w = .ok i → step s = exec i s) ∧
    (∀ (s : State) (rest : List Move) (v : Nat) (i : Instr), s.cmdPort = none → s.sched = .host (.wr 0 v) :: rest →
      decode (BitVec.ofNat 32 v) = .ok i → step s = exec i { s with sched := rest, cmdPort := some (BitVec.ofNat 32 v) }) ∧
    (∀ (s : State) (i : Instr), s.cmdPort = none → s.status.busy = true → decode s.lcmd = .ok i → s.sched = [] →
      step s = exec i s) ∧
    (∀ (s : State) (rest : List Move) (i : Instr), s.cmdPort = none → s.status.busy = true → decode s.lcmd = .ok i →
      s.sched = .engine :: rest → step s = exec i { s with sched := rest }) ∧
    ∀ s : State, s.cmdPort = none → s.status.busy = false →
      (s.sched = [] → step s = .next s) ∧
        ∀ rest : List Move, s.sched = .engine :: rest → step s = .next { s with sched := rest }

/-- R240, R260, R262: a command word written to CMD while idle reports the first failing check in the order LEN_RANGE,
ZERO_KEY, NO_TABLE, KEY_SHORT and changes nothing but STATUS and LCMD, or, when none fails, is taken up with BUSY = 1 and
OLEN = 0. `cmdPort` is the model's (log entry 3). -/
def Obligations.AcceptanceFollowsTheFixedOrder : Prop :=
  ∀ (i : Instr) (s : State) (w : Word), s.cmdPort = some w → s.status.busy = false →
    (lenRangeCause Config.params i s → exec i s = .next (turnedAway w .lenRange s)) ∧
    (¬ lenRangeCause Config.params i s → zeroKeyCause i s → exec i s = .next (turnedAway w .zeroKey s)) ∧
    (¬ lenRangeCause Config.params i s → ¬ zeroKeyCause i s → noTableCause i s →
      exec i s = .next (turnedAway w .noTable s)) ∧
    (¬ lenRangeCause Config.params i s → ¬ zeroKeyCause i s → ¬ noTableCause i s → keyShortCause i s →
      exec i s = .next (turnedAway w .keyShort s)) ∧
    (¬ lenRangeCause Config.params i s → ¬ zeroKeyCause i s → ¬ noTableCause i s → ¬ keyShortCause i s →
      exec i s = .next (takenUp w s))

/-- R245: a CMD write while busy. The ABORT word sets ABORTREQ and nothing else; every other word changes nothing. `cmdPort`,
which the step clears, is the model's (log entry 3). -/
def Obligations.BusyCmdWriteOnlyHearsAbort : Prop :=
  ∀ (s : State) (w : Word), s.cmdPort = some w → s.status.busy = true →
    step s = .next { s with cmdPort := none,
                            status := { s.status with abortreq := if w = 0x0000000F then true else s.status.abortreq } }

/-! ### Functions -/

/-- R160, R161: the byte transforms are table look-ups under addition and subtraction modulo 256. -/
def Obligations.ByteTransformsAddAndSubtractModulo256 : Prop :=
  (∀ (p k : Byte) (t : Bytes), encodeByte p k t = t.getD ((p.toNat + k.toNat) % 256) 0) ∧
    ∀ (c k : Byte) (q : Bytes),
      (decodeByte c k q).toNat =
        if k.toNat ≤ (q.getD c.toNat 0).toNat then (q.getD c.toNat 0).toNat - k.toNat
        else (q.getD c.toNat 0).toNat + 256 - k.toNat

/-- R162: byte round trip in both directions, each from the inverse law it needs, and the encoding of bytes under a permutation is
a bijection. -/
def Obligations.ByteRoundTrip : Prop :=
  ∀ p q : Bytes,
    ((∀ i : Byte, entry q (entry p i.toNat).toNat = i) → ∀ x k : Byte, decodeByte (encodeByte x k p) k q = x) ∧
    ((∀ v : Byte, entry p (entry q v.toNat).toNat = v) → ∀ c k : Byte, encodeByte (decodeByte c k q) k p = c) ∧
    (TablesInverse p q → ∀ k : Byte, Function.Bijective (fun x => encodeByte x k p))

/-- R163, R164: the block transforms have the block's length and work position by position. -/
def Obligations.BlockTransformsArePositional : Prop :=
  ∀ b k t : Bytes, b.length ≤ k.length →
    (encodeBlock b k t).length = b.length ∧ (decodeBlock b k t).length = b.length ∧
      ∀ i, i < b.length →
        (encodeBlock b k t).getD i 0 = encodeByte (b.getD i 0) (k.getD i 0) t ∧
          (decodeBlock b k t).getD i 0 = decodeByte (b.getD i 0) (k.getD i 0) t

/-- R165: the block guarantee, and no chaining between bytes: wherever a byte and its key byte stand, they give the same output. -/
def Obligations.BlockGuarantee : Prop :=
  ∀ b k p q : Bytes, b.length ≤ k.length →
    (TablesInverse p q → decodeBlock (encodeBlock b k p) k q = b) ∧
      ∀ (b' k' : Bytes) (i j : Nat), b'.length ≤ k'.length → i < b.length → j < b'.length → b.getD i 0 = b'.getD j 0 →
        k.getD i 0 = k'.getD j 0 →
        (encodeBlock b k p).getD i 0 = (encodeBlock b' k' p).getD j 0 ∧
          (decodeBlock b k q).getD i 0 = (decodeBlock b' k' q).getD j 0

/-- R14: be_bytes has the stated length and, read most significant byte first, the stated value. -/
def Obligations.BeBytesIsMostSignificantFirst : Prop :=
  ∀ v len : Nat, v < 2 ^ (8 * len) →
    (beBytes v len).length = len ∧ (beBytes v len).foldl (fun a b => a * 256 + b.toNat) 0 = v

/-- R120, R122: what one round of stretch makes of a part, the rounds, the length, the prefix law, and the empty target. -/
def Obligations.StretchRoundsLengthAndPrefix : Prop :=
  ∀ (P : Params) (key : Bytes), 1 ≤ key.length →
    (∀ part, nextPart P part = beBytes (P.bits (P.seed (P.hash512 part)) (8 * part.length)).1 part.length) ∧
      (∀ n, stretch P key (n * key.length) = (List.range n).flatMap (fun r => (nextPart P)^[r + 1] key)) ∧
      (∀ t, (stretch P key t).length = t) ∧ (∀ t1 t2, t1 ≤ t2 → stretch P key t1 = (stretch P key t2).take t1) ∧
      stretch P key 0 = []

/-- R143 a, b: generate gives a bijection of the 256 byte values and its inverse, for every seed. -/
def Obligations.GenerateGivesInverseBijections : Prop :=
  ∀ (P : Params) (seedKey : Bytes), TablesInverse (generate P seedKey).1 (generate P seedKey).2

/-- R140, R141: the shuffle is the 255 exchanges of the identity for i = 255 down to 1, each with a draw below i + 1 from the state
that the draw before returned; so its first draw, below 256, settles entry 255, and its second, below 255, picks entry 254 from
what the first exchange left. -/
def Obligations.ShuffleWalksDownward : Prop :=
  ∀ (P : Params) (seedKey : Bytes),
    (generate P seedKey).1 =
      (((List.range 255).map (255 - ·)).foldl (exchange P)
        ((List.range 256).map (BitVec.ofNat 8), P.seed (P.hash512 seedKey))).1 ∧
    let d := P.below (P.seed (P.hash512 seedKey)) 256
    (generate P seedKey).1.getD 255 0 = BitVec.ofNat 8 d.1 ∧
      (generate P seedKey).1.getD 254 0 =
        (if (P.below d.2 255).1 = d.1 then BitVec.ofNat 8 255 else BitVec.ofNat 8 (P.below d.2 255).1)

/-- R168 a, c: the whole-message round trip, with and without compression, and the length of the result. -/
def Obligations.MessageRoundTrip : Prop :=
  ∀ (P : Params) (m key : Bytes) (c : Bool), 1 ≤ key.length →
    decodeMsg P (encodeMsg P m key c) key c = some m ∧
      (encodeMsg P m key c).length = if c then (P.compress m).length else m.length

/-- R200: the block split: how many blocks, which bytes each holds, how long each is, and that together they are the sequence. -/
def Obligations.BlockSplitCoversTheSequence : Prop :=
  ∀ s : Bytes,
    s.length ≤ 8192 * totalBlocks s.length ∧ 8192 * totalBlocks s.length < s.length + 8192 ∧
      (∀ i, i < totalBlocks s.length →
        (blockOf s i).length = min 8192 (s.length - 8192 * i) ∧ 1 ≤ (blockOf s i).length ∧
          (i + 1 < totalBlocks s.length → (blockOf s i).length = 8192) ∧
          ∀ j, j < (blockOf s i).length → (blockOf s i).getD j 0 = s.getD (8192 * i + j) 0) ∧
      (List.range (totalBlocks s.length)).flatMap (blockOf s) = s ∧ (s = [] → totalBlocks s.length = 0)

/-- R201: every block key has 8192 bytes and every later key of the chain the last min(K, 8192) bytes of the block key before. -/
def Obligations.KeyChainLengths : Prop :=
  ∀ (P : Params) (key : Bytes), 1 ≤ key.length →
    ∀ i, (blockKeyOf P key i).length = 8192 ∧ blockKeyOf P key i = stretch P (chainKey P key i) 8192 ∧
      chainKey P key (i + 1) = (blockKeyOf P key i).drop (8192 - min key.length 8192) ∧
      (chainKey P key (i + 1)).length = min key.length 8192

/-- R204: both stream functions keep the length, and what byte j of each is. -/
def Obligations.StreamBytesByPosition : Prop :=
  ∀ (P : Params) (s key : Bytes), 1 ≤ key.length →
    (streamEncBytes P s key).length = s.length ∧ (streamDecBytes P s key).length = s.length ∧
      ∀ j, j < s.length →
        let bk := blockKeyOf P key (j / 8192)
        (streamEncBytes P s key).getD j 0 =
            (generate P bk).1.getD (((s.getD j 0).toNat + (bk.getD (j % 8192) 0).toNat) % 256) 0 ∧
          (streamDecBytes P s key).getD j 0 = (generate P bk).2.getD (s.getD j 0).toNat 0 - bk.getD (j % 8192) 0

/-- R215 a: decoding a stream gives back what was encoded, for every length. -/
def Obligations.StreamRoundTrip : Prop :=
  ∀ (P : Params) (s key : Bytes), 1 ≤ key.length → streamDecBytes P (streamEncBytes P s key) key = s

/-- R215 c: the ciphertext of a prefix is the same-length prefix of the ciphertext. -/
def Obligations.StreamPrefixLocality : Prop :=
  ∀ (P : Params) (s key : Bytes) (n : Nat), 1 ≤ key.length →
    streamEncBytes P (s.take n) key = (streamEncBytes P s key).take n

/-- R203: the interval. -/
def Obligations.IntervalValues : Prop :=
  (∀ t, t ≤ 39 → interval t = 1) ∧ (∀ t, 40 ≤ t → t ≤ 59 → interval t = 2) ∧ ∀ t, 20 ≤ t → interval t = t / 20

/-- R205, R207: how many records a stream command that completes pushes, and that the last is (1, 1, TOTB, TOTB). -/
def Obligations.RecordCount : Prop :=
  ∀ t : Nat,
    (streamRecords t).length = (t + interval t - 1) / interval t + 1 ∧
      (t ≤ 39 → (streamRecords t).length = t + 1) ∧
      (20 ≤ t → 21 ≤ (streamRecords t).length ∧ (streamRecords t).length ≤ 40) ∧
      (streamRecords t).getLast? = some ⟨1, 1, t, t⟩

/-! ### What each command does -/

/-- R124, R70, SEL = 0: MLEN bytes of the stretched key go to OUT and the command completes; when OUT takes fewer, but is not
full, under any instantiation, those that fit go and the rest waits (for a full OUT: StepsNeedStreamSpace). How the rest waits is
the model's choice (log entries 7 and 32). -/
def Obligations.StretchToOutCompletes : Prop :=
  (∀ s : State, s.atStep → 1 ≤ s.klen → outTakes Config.params s s.mlen →
    exec (.stretch false) s =
      .next { s with outQ := s.outQ ++ stretch Config.params (s.keyBytes Config.params) s.mlen, olen := s.mlen,
                     started := false, status := doneStatus s.status }) ∧
  (∀ s : State, exec (.stretch false) s = .next (stretchCommand Config.params false s)) ∧
  ∀ (P : Params) (s : State), s.atStep → 1 ≤ s.klen → ¬ outTakes P s s.mlen →
    fits (s.outQ.length + 1) P.outDepth →
    stretchCommand P false s = heldPushing P (stretch P (s.keyBytes P) s.mlen) { s with olen := s.mlen }

/-- R124, SEL = 1: the stretched key goes to BKEY[0:MLEN] and MLEN to BKLEN; the other bytes of BKEY stay. -/
def Obligations.StretchToBkeyCompletes : Prop :=
  ∀ s : State, s.atStep → 1 ≤ s.klen →
    ∃ t, exec (.stretch true) s = .next t ∧
      t = { s with bkey := t.bkey, bklen := s.mlen, started := false, status := doneStatus s.status } ∧
      (stretch Config.params (s.keyBytes Config.params) s.mlen).length = s.mlen ∧
      writtenFrom Config.params s t .bkey (stretch Config.params (s.keyBytes Config.params) s.mlen)

/-- R145: GENPERM with its seed from IN (SEL = 0) or from BKEY (SEL = 1) writes both tables and sets PVALID. -/
def Obligations.GenpermCompletes : Prop :=
  (∀ s : State, s.atStep → s.mlen ≤ s.inQ.length →
    ∃ t, exec (.genperm false) s = .next t ∧
      t = { s with inQ := s.inQ.drop s.mlen, perm := t.perm, iperm := t.iperm, started := false,
                   status := doneWithTables s.status } ∧
      tablesFrom Config.params s t (s.inQ.take s.mlen)) ∧
  ∀ s : State, s.atStep →
    ∃ t, exec (.genperm true) s = .next t ∧
      t = { s with perm := t.perm, iperm := t.iperm, started := false, status := doneWithTables s.status } ∧
      tablesFrom Config.params s t ((List.range s.bklen).map (s.byteAt Config.params .bkey))

/-- R169, R170: ENCB and DECB write RES and nothing else. -/
def Obligations.ByteCommandsComplete : Prop :=
  ∀ s : State, s.atStep →
    exec .encb s =
      .next { s with res := s.byteAt Config.params .perm ((s.opb.toNat % 256 + s.opb.toNat / 256) % 256),
                     started := false, status := doneStatus s.status } ∧
    exec .decb s =
      .next { s with res := s.byteAt Config.params .iperm (s.opb.toNat % 256) - BitVec.ofNat 8 (s.opb.toNat / 256),
                     started := false, status := doneStatus s.status }

/-- R171, R172, R70: ENCBLK and DECBLK take MLEN bytes of IN, push as many to OUT and complete; when OUT takes fewer, but is
not full, under any instantiation, those that fit go and the rest waits (for a full OUT: StepsNeedStreamSpace). How the rest
waits is the model's choice (log entries 7 and 32). -/
def Obligations.BlockCommandsComplete : Prop :=
  (∀ s : State, s.atStep → s.mlen ≤ s.inQ.length → s.mlen ≤ s.bklen → outTakes Config.params s s.mlen →
    let blockKey := (List.range s.bklen).map (s.byteAt Config.params .bkey)
    exec .encblk s =
      .next { s with inQ := s.inQ.drop s.mlen, olen := s.mlen, started := false, status := doneStatus s.status,
                     outQ := s.outQ ++ encodeBlock (s.inQ.take s.mlen) blockKey
                       ((List.range 256).map (s.byteAt Config.params .perm)) } ∧
    exec .decblk s =
      .next { s with inQ := s.inQ.drop s.mlen, olen := s.mlen, started := false, status := doneStatus s.status,
                     outQ := s.outQ ++ decodeBlock (s.inQ.take s.mlen) blockKey
                       ((List.range 256).map (s.byteAt Config.params .iperm)) }) ∧
  (∀ s : State, exec .encblk s = .next (encblkCommand Config.params s) ∧
    exec .decblk s = .next (decblkCommand Config.params s)) ∧
  ∀ (P : Params) (s : State), s.atStep → s.mlen ≤ s.inQ.length → s.mlen ≤ s.bklen → ¬ outTakes P s s.mlen →
    fits (s.outQ.length + 1) P.outDepth →
    let blockKey := (List.range s.bklen).map (s.byteAt P .bkey)
    encblkCommand P s =
      heldPushing P (encodeBlock (s.inQ.take s.mlen) blockKey ((List.range 256).map (s.byteAt P .perm)))
        { s with inQ := s.inQ.drop s.mlen, olen := s.mlen } ∧
    decblkCommand P s =
      heldPushing P (decodeBlock (s.inQ.take s.mlen) blockKey ((List.range 256).map (s.byteAt P .iperm)))
        { s with inQ := s.inQ.drop s.mlen, olen := s.mlen }

/-- R173, R70: ENCODE pushes encodeMsg of MLEN bytes of IN, leaves the message's tables in PERM and IPERM, sets PVALID and
completes; when OUT takes fewer bytes, but is not full, under any instantiation, those that fit go and the rest waits (for a full
OUT: StepsNeedStreamSpace). How the rest waits is the model's choice (log entries 7 and 32). -/
def Obligations.EncodeCompletes : Prop :=
  (∀ (c : Bool) (s : State), s.atStep → 1 ≤ s.klen → s.mlen ≤ s.inQ.length →
    let m := s.inQ.take s.mlen
    let m' := if c then Config.params.compress m else m
    let key := s.keyBytes Config.params
    outTakes Config.params s m'.length →
    ∃ t, exec (.encode c) s = .next t ∧
      t = { s with inQ := s.inQ.drop s.mlen, outQ := s.outQ ++ encodeMsg Config.params m key c, olen := m'.length,
                   perm := t.perm, iperm := t.iperm, started := false, status := doneWithTables s.status } ∧
      tablesFrom Config.params s t (stretch Config.params key m'.length)) ∧
  (∀ (c : Bool) (s : State), exec (.encode c) s = .next (encodeCommand Config.params c s)) ∧
  ∀ (P : Params) (c : Bool) (s : State), s.atStep → 1 ≤ s.klen → s.mlen ≤ s.inQ.length →
    let m := s.inQ.take s.mlen
    let m' := if c then P.compress m else m
    let key := s.keyBytes P
    ¬ outTakes P s m'.length → fits (s.outQ.length + 1) P.outDepth →
    let t := encodeCommand P c s
    t = heldPushing P (encodeMsg P m key c)
        { s with inQ := s.inQ.drop s.mlen, olen := m'.length, perm := t.perm, iperm := t.iperm,
                 status := { s.status with pvalid := true } } ∧
      tablesFrom P s t (stretch P key m'.length)

/-- R174, R70: DECODE, when decodeMsg gives bytes (always with C = 0), pushes them, leaves the message's tables in PERM and IPERM,
sets PVALID and completes; when OUT takes fewer bytes, but is not full, under any instantiation, those that fit go and the rest
waits (for a full OUT: StepsNeedStreamSpace). How the rest waits is the model's choice (log entries 7 and 32). -/
def Obligations.DecodeCompletes : Prop :=
  (∀ (c : Bool) (s : State) (p : Bytes), s.atStep → 1 ≤ s.klen → s.mlen ≤ s.inQ.length →
    decodeMsg Config.params (s.inQ.take s.mlen) (s.keyBytes Config.params) c = some p →
    outTakes Config.params s p.length →
    ∃ t, exec (.decode c) s = .next t ∧
      t = { s with inQ := s.inQ.drop s.mlen, outQ := s.outQ ++ p, olen := p.length,
                   perm := t.perm, iperm := t.iperm, started := false, status := doneWithTables s.status } ∧
      tablesFrom Config.params s t (stretch Config.params (s.keyBytes Config.params) s.mlen)) ∧
  (∀ (c : Bool) (s : State), exec (.decode c) s = .next (decodeCommand Config.params c s)) ∧
  ∀ (P : Params) (c : Bool) (s : State) (p : Bytes), s.atStep → 1 ≤ s.klen → s.mlen ≤ s.inQ.length →
    decodeMsg P (s.inQ.take s.mlen) (s.keyBytes P) c = some p → ¬ outTakes P s p.length →
    fits (s.outQ.length + 1) P.outDepth →
    let t := decodeCommand P c s
    t = heldPushing P p
        { s with inQ := s.inQ.drop s.mlen, olen := p.length, perm := t.perm, iperm := t.iperm,
                 status := { s.status with pvalid := true } } ∧
      tablesFrom P s t (stretch P (s.keyBytes P) s.mlen)

/-- R174, R253, R261: DECODE_FAILED under any instantiation, with the model's command that exec runs under its own: the input is
consumed and the tables written, nothing is pushed, OLEN stays, ERR is DECODE_FAILED. -/
def Obligations.DecodeFailedLeavesTablesAndNoOutput : Prop :=
  (∀ s : State, exec (.decode true) s = .next (decodeCommand Config.params true s)) ∧
  ∀ (P : Params) (s : State), s.atStep → 1 ≤ s.klen → s.mlen ≤ s.inQ.length →
    decodeMsg P (s.inQ.take s.mlen) (s.keyBytes P) true = none →
    let t := decodeCommand P true s
    t = { s with inQ := s.inQ.drop s.mlen, perm := t.perm, iperm := t.iperm, started := false,
                 status := { s.status with busy := false, done := true, abortreq := false, pvalid := true,
                                           err := .decodeFailed } } ∧
      tablesFrom P s t (stretch P (s.keyBytes P) s.mlen)

/-- R210, R213: the start steps of SENC and SDEC. SENC with C = 1 takes all MLEN bytes of IN into ZBUF, compressed; SENC with
C = 0 and SDEC take none. PKT becomes KEY[0:KLEN], which stands in KEY (log entry 31). -/
def Obligations.StreamStartSteps : Prop :=
  (∀ s : State, s.pkt = .key →
    s.chainValue Config.params = (List.range s.klen).map (s.byteAt Config.params .key)) ∧
  ∀ s : State, s.atStep → s.started = false → s.status.abortreq = false →
    exec (.senc false) s =
      .next { s with ltot := s.mlen, totb := (s.mlen + 8191) / 8192, intv := max 1 ((s.mlen + 8191) / 8192 / 20), bidx := 0,
                     pkt := .key, started := true } ∧
    (s.mlen ≤ s.inQ.length →
      let z := Config.params.compress (s.inQ.take s.mlen)
      exec (.senc true) s =
        .next { s with inQ := s.inQ.drop s.mlen, zbuf := z, ltot := z.length, totb := (z.length + 8191) / 8192,
                       intv := max 1 ((z.length + 8191) / 8192 / 20), bidx := 0, pkt := .key,
                       started := true }) ∧
    ∀ c, exec (.sdec c) s =
      .next { s with ltot := s.mlen, zbuf := [], totb := (s.mlen + 8191) / 8192,
                     intv := max 1 ((s.mlen + 8191) / 8192 / 20), bidx := 0, pkt := .key,
                     started := true }

/-- R211: the block step of SENC: one block, its key to BKEY, its tail to PKT, its tables to PERM and IPERM, its ciphertext to OUT,
its record to EVT when one is due, and BIDX one further; and, when the streams it pushes to are not full, its pushes are
made as far as there is room (R70, WaitingPushesKeepTheirOrder; when one is full: StepsNeedStreamSpace; how the rest waits is
the model's choice, log entries 7 and 32). -/
def Obligations.SencBlockStep : Prop :=
  ∀ (c : Bool) (s : State), s.atStep → s.started = true → s.status.abortreq = false → s.bidx < s.totb →
    1 ≤ (s.chainValue Config.params).length →
    let n := min 8192 (s.ltot - 8192 * s.bidx)
    let b := if c then (s.zbuf.drop (8192 * s.bidx)).take n else s.inQ.take n
    let bk := stretch Config.params (s.chainValue Config.params) 8192
    let due := if s.bidx % s.intv = 0 then [Progress.mk s.bidx s.totb s.bidx s.totb] else []
    (c = false → n ≤ s.inQ.length) →
    (streamsOpen Config.params s (encodeBlock b bk (generate Config.params bk).1) due →
    ∃ u, exec (.senc c) s = .next (u.drain Config.params) ∧
      u = { s with inQ := if c then s.inQ else s.inQ.drop n, bkey := u.bkey, bklen := 8192,
                   pkt := .tail (bk.drop (8192 - min s.klen 8192)), perm := u.perm, iperm := u.iperm, olen := s.olen + n,
                   bidx := s.bidx + 1, status := { s.status with pvalid := true },
                   pend := (encodeBlock b bk (generate Config.params bk).1).map .byte ++ due.map .record } ∧
      writtenFrom Config.params s u .bkey bk ∧ tablesFrom Config.params s u bk) ∧
    (fits (s.outQ.length + n) Config.params.outDepth → (due ≠ [] → fits (s.evtQ.length + 1) Config.params.evtDepth) →
    ∃ t, exec (.senc c) s = .next t ∧
      t = { s with inQ := if c then s.inQ else s.inQ.drop n, bkey := t.bkey, bklen := 8192,
                   pkt := .tail (bk.drop (8192 - min s.klen 8192)), perm := t.perm, iperm := t.iperm,
                   outQ := s.outQ ++ encodeBlock b bk (generate Config.params bk).1, olen := s.olen + n,
                   evtQ := s.evtQ ++ due, bidx := s.bidx + 1, status := { s.status with pvalid := true } } ∧
      bk.length = 8192 ∧ writtenFrom Config.params s t .bkey bk ∧ tablesFrom Config.params s t bk)

/-- R213: the block step of SDEC: as SENC's, with decodeBlock; with C = 1 the decoded bytes go to ZBUF in place of OUT. When
the streams it pushes to are not full, its pushes are made as far as there is room (R70, WaitingPushesKeepTheirOrder; when one is
full: StepsNeedStreamSpace; log entries 7 and 32). -/
def Obligations.SdecBlockStep : Prop :=
  ∀ (c : Bool) (s : State), s.atStep → s.started = true → s.status.abortreq = false → s.bidx < s.totb →
    1 ≤ (s.chainValue Config.params).length →
    let n := min 8192 (s.ltot - 8192 * s.bidx)
    let bk := stretch Config.params (s.chainValue Config.params) 8192
    let d := decodeBlock (s.inQ.take n) bk (generate Config.params bk).2
    let due := if s.bidx % s.intv = 0 then [Progress.mk s.bidx s.totb s.bidx s.totb] else []
    n ≤ s.inQ.length →
    (streamsOpen Config.params s (if c then [] else d) due →
    ∃ u, exec (.sdec c) s = .next (u.drain Config.params) ∧
      u = { s with inQ := s.inQ.drop n, bkey := u.bkey, bklen := 8192, pkt := .tail (bk.drop (8192 - min s.klen 8192)),
                   perm := u.perm, iperm := u.iperm, olen := if c then s.olen else s.olen + n,
                   zbuf := if c then s.zbuf ++ d else s.zbuf, bidx := s.bidx + 1,
                   status := { s.status with pvalid := true },
                   pend := (if c then [] else d.map .byte) ++ due.map .record } ∧
      writtenFrom Config.params s u .bkey bk ∧ tablesFrom Config.params s u bk) ∧
    ((c = false → fits (s.outQ.length + n) Config.params.outDepth) →
    (due ≠ [] → fits (s.evtQ.length + 1) Config.params.evtDepth) →
    ∃ t, exec (.sdec c) s = .next t ∧
      t = { s with inQ := s.inQ.drop n, bkey := t.bkey, bklen := 8192, pkt := .tail (bk.drop (8192 - min s.klen 8192)),
                   perm := t.perm, iperm := t.iperm, outQ := if c then s.outQ else s.outQ ++ d,
                   olen := if c then s.olen else s.olen + n, zbuf := if c then s.zbuf ++ d else s.zbuf,
                   evtQ := s.evtQ ++ due, bidx := s.bidx + 1, status := { s.status with pvalid := true } } ∧
      bk.length = 8192 ∧ writtenFrom Config.params s t .bkey bk ∧ tablesFrom Config.params s t bk)

/-- R212, R213, R214: the final steps: SENC and SDEC with C = 0 push the final record; SDEC with C = 1 first pushes the
decompressed message, when there is one. When the streams they push to are not full, their pushes are made as
far as there is room (R70, WaitingPushesKeepTheirOrder; when one is full: StepsNeedStreamSpace; log entries 7 and 32). -/
def Obligations.StreamFinalSteps : Prop :=
  ∀ s : State, s.atStep → s.started = true → s.status.abortreq = false → s.bidx = s.totb →
    ((∀ i, i = .sdec false ∨ (∃ c, i = .senc c) → streamsOpen Config.params s [] [⟨1, 1, s.totb, s.totb⟩] →
      exec i s =
        .next ({ s with pend := [.record ⟨1, 1, s.totb, s.totb⟩], fin := true : State }.drain Config.params)) ∧
    ∀ p, Config.params.decompress s.zbuf = some p → streamsOpen Config.params s p [⟨1, 1, s.totb, s.totb⟩] →
      exec (.sdec true) s =
        .next ({ s with olen := p.length, pend := p.map .byte ++ [.record ⟨1, 1, s.totb, s.totb⟩],
                        fin := true : State }.drain Config.params)) ∧
    (fits (s.evtQ.length + 1) Config.params.evtDepth →
    (∀ c, exec (.senc c) s =
      .next { s with evtQ := s.evtQ ++ [⟨1, 1, s.totb, s.totb⟩], started := false, status := doneStatus s.status }) ∧
    exec (.sdec false) s =
      .next { s with evtQ := s.evtQ ++ [⟨1, 1, s.totb, s.totb⟩], started := false, status := doneStatus s.status } ∧
    ∀ p, Config.params.decompress s.zbuf = some p → fits (s.outQ.length + p.length) Config.params.outDepth →
      exec (.sdec true) s =
        .next { s with outQ := s.outQ ++ p, olen := p.length, evtQ := s.evtQ ++ [⟨1, 1, s.totb, s.totb⟩],
                       started := false, status := doneStatus s.status })

/-- R214, R253: SDEC with C = 1 whose decoded bytes do not decompress, under any instantiation: DECODE_FAILED, nothing pushed, no
final record. -/
def Obligations.SdecDecodeFailedPushesNothing : Prop :=
  (∀ s : State, exec (.sdec true) s = .next (sdecCommand Config.params true s)) ∧
  ∀ (P : Params) (s : State), s.atStep → s.started = true → s.status.abortreq = false → s.bidx = s.totb →
    P.decompress s.zbuf = none →
    sdecCommand P true s =
      { s with started := false,
               status := { s.status with busy := false, done := true, abortreq := false, err := .decodeFailed } }

/-- R243 a: ABORT accepted while idle completes, and changes nothing else. -/
def Obligations.AbortWhileIdleCompletes : Prop :=
  ∀ s : State, s.atStep → exec .abort s = .next { s with started := false, status := doneStatus s.status }

/-- R243 c: between steps, a requested abort is the one step SENC and SDEC take: they end with ABORTED; nothing is pushed or
popped, and no register, buffer or hidden value changes. Inferences: that the abort goes before a start step too (log entry
12), that the bytes of a block that has half arrived are still in IN (log entry 8), and that the dead PKT, LTOT and ZBUF keep
their values (log entry 16). -/
def Obligations.RequestedAbortEndsAStreamCommand : Prop :=
  ∀ (i : Instr) (s : State), isStream i = true → s.atStep → s.status.abortreq = true →
    exec i s =
      .next { s with started := false,
                     status := { s.status with busy := false, done := true, aborted := true, abortreq := false } }

/-! ### Whole-machine rules -/

/-- R70: between steps, a command whose next step pops more bytes than IN holds does not move, and an abort request does not
change that unless it is SENC or SDEC (R243 d). That a hold is a step which answers the same state is the model's choice (log
entry 13), and that IN keeps the bytes that have arrived meanwhile is an inference (log entry 8). How many bytes each step pops
is spelled out in stepTakes. -/
def Obligations.EngineHoldsForInput : Prop :=
  ∀ (i : Instr) (s : State), s.atStep → s.inQ.length < stepTakes i s → (isStream i = true → s.status.abortreq = false) →
    exec i s = .next s

/-- R16, R70: under any instantiation, between steps and with its input there, a step is not enabled while a stream that it pushes
to is full; when none is, what goes to OUT and to EVT, there already or waiting, is exactly what the rules give the step. That
one free place in each of its streams enables a step, and that a hold is a step which answers the same state, is the model's
choice (log entries 13 and 32). -/
def Obligations.StepsNeedStreamSpace : Prop :=
  (∀ (i : Instr) (s : State), exec i s = .next (commandUnder Config.params i s)) ∧
  ∀ (P : Params) (i : Instr) (s : State), s.atStep → stepTakes i s ≤ s.inQ.length →
    (isStream i = true → s.status.abortreq = false) →
    (¬ streamsOpen P s (stepBytes P i s) (stepRecords P i s) → commandUnder P i s = s) ∧
    (streamsOpen P s (stepBytes P i s) (stepRecords P i s) →
      (commandUnder P i s).outQ ++ pushedBytes (commandUnder P i s).pend = s.outQ ++ stepBytes P i s ∧
      (commandUnder P i s).evtQ ++ pushedRecords (commandUnder P i s).pend = s.evtQ ++ stepRecords P i s)

/-- R70, R72: while pushes wait, the engine's move makes them in order as far as there is room; under every capacity: what
OUT holds followed by what waits for it stays the same, and so for EVT; what is first of those that still wait has no room, and
a push without room holds everything behind it; the command ends exactly when its ending step has none left; and nothing but
OUT, EVT, the sequencer and STATUS changes. That the pushes of a step wait in `pend` and its registers are
written at its start is the model's choice (log entry 7). -/
def Obligations.WaitingPushesKeepTheirOrder : Prop :=
  (∀ (i : Instr) (s : State), s.cmdPort = none → s.status.busy = true → s.pend ≠ [] ∨ s.fin = true →
    exec i s = .next (s.drain Config.params)) ∧
  ∀ (P : Params) (s : State),
    let t := s.drain P
    t = { s with outQ := t.outQ, evtQ := t.evtQ, pend := t.pend, fin := t.fin, started := t.started, status := t.status } ∧
      t.outQ ++ pushedBytes t.pend = s.outQ ++ pushedBytes s.pend ∧
      t.evtQ ++ pushedRecords t.pend = s.evtQ ++ pushedRecords s.pend ∧ t.pend <:+ s.pend ∧
      (∀ b rest, t.pend = .byte b :: rest → ¬ fits (t.outQ.length + 1) P.outDepth) ∧
      (∀ r rest, t.pend = .record r :: rest → ¬ fits (t.evtQ.length + 1) P.evtDepth) ∧
      (t.pend ≠ [] → t.status = s.status ∧ t.fin = s.fin ∧ t.started = s.started) ∧
      (t.pend = [] → t.fin = false ∧ t.status = (if s.fin then doneStatus s.status else s.status) ∧
        t.started = (if s.fin then false else s.started)) ∧
      (∀ b rest, s.pend = .byte b :: rest → ¬ fits (s.outQ.length + 1) P.outDepth → t = s) ∧
      ∀ r rest, s.pend = .record r :: rest → ¬ fits (s.evtQ.length + 1) P.evtDepth → t = s

/-- R77: no command ever writes KEY, KLEN, MLEN or OPB. -/
def Obligations.EngineNeverWritesHostOperands : Prop :=
  ∀ (i : Instr) (s t : State), exec i s = .next t →
    (∀ j, t.byteAt Config.params .key j = s.byteAt Config.params .key j) ∧ t.klen = s.klen ∧ t.mlen = s.mlen ∧
      t.opb = s.opb

/-- R47: the commands that write no buffer leave every byte of every buffer as it was; the others leave KEY, and those that write
only tables or only BKEY leave the rest. -/
def Obligations.BufferFrames : Prop :=
  ∀ (i : Instr) (s t : State), exec i s = .next t →
    (i ∈ [.stretch false, .encb, .decb, .encblk, .decblk, .abort] →
      ∀ sp j, t.byteAt Config.params sp j = s.byteAt Config.params sp j) ∧
    (i = .stretch true → ∀ sp j, sp ≠ .bkey → t.byteAt Config.params sp j = s.byteAt Config.params sp j) ∧
    (∀ b, i = .genperm b ∨ i = .encode b ∨ i = .decode b →
      ∀ sp j, sp ≠ .perm → sp ≠ .iperm → t.byteAt Config.params sp j = s.byteAt Config.params sp j)

/-- R47: which registers, streams and hidden values a command leaves alone: only SENC and SDEC write BIDX, TOTB, INTV, PKT, LTOT,
ZBUF and EVT; only ENCB and DECB write RES; only STRETCH to BKEY, SENC and SDEC write BKLEN; STRETCH, ENCB, DECB, GENPERM from BKEY
and ABORT leave IN. While no push of an earlier step waits, EVT and OUT stay as well where the command pushes nothing there
(what a drain changes is WaitingPushesKeepTheirOrder). -/
def Obligations.RegisterFrames : Prop :=
  ∀ (i : Instr) (s t : State), exec i s = .next t →
    (isStream i = false → t.bidx = s.bidx ∧ t.totb = s.totb ∧ t.intv = s.intv ∧ t.pkt = s.pkt ∧ t.ltot = s.ltot ∧
      t.zbuf = s.zbuf) ∧
    (i ≠ .encb → i ≠ .decb → t.res = s.res) ∧
    (i ≠ .stretch true → isStream i = false → t.bklen = s.bklen) ∧
    (i ∈ [.stretch false, .stretch true, .encb, .decb, .genperm true, .abort] → t.inQ = s.inQ) ∧
    (s.pend = [] → (isStream i = false → t.evtQ = s.evtQ) ∧
      (i ∈ [.stretch true, .genperm false, .genperm true, .encb, .decb, .abort] → t.outQ = s.outQ))

/-- R23, R38: PVALID is cleared by reset only. -/
def Obligations.OnlyResetClearsPvalid : Prop :=
  ∀ s t : State, step s = .next t → s.status.pvalid = true → t.status.pvalid = false →
    s.cmdPort = none ∧ ∃ rest, s.sched = .host .reset :: rest

/-- R23, R250: the bits of STATUS, and the numbers that ERR takes. -/
def Obligations.StatusWordLayout : Prop :=
  (ErrCode.noError.code = 0 ∧ ErrCode.zeroKey.code = 1 ∧ ErrCode.decodeFailed.code = 2 ∧ ErrCode.illegalCmd.code = 3 ∧
    ErrCode.keyShort.code = 4 ∧ ErrCode.lenRange.code = 5 ∧ ErrCode.noTable.code = 6) ∧
  ∀ f : Status,
    f.word.getLsbD 0 = f.busy ∧ f.word.getLsbD 1 = f.done ∧ f.word.getLsbD 2 = f.pvalid ∧ f.word.getLsbD 3 = f.abortreq ∧
      f.word.extractLsb' 4 4 = f.err.code ∧ f.word.getLsbD 8 = f.aborted ∧ f.word.toNat < 2 ^ 9

/-! ### The host's moves -/

/-- R21, R68: an idle engine's registers, by their numbers, and buffers as the host reads and writes them. The schedule and the returned value are
the model's fields (log entries 1 and 11). -/
def Obligations.IdleHostAccess : Prop :=
  ∀ (s : State) (rest : List Move), s.cmdPort = none → s.status.busy = false →
    (∀ v, s.sched = .host (.wr 2 v) :: rest → step s = .next { s with klen := v, sched := rest }) ∧
    (∀ v, s.sched = .host (.wr 3 v) :: rest → step s = .next { s with mlen := v, sched := rest }) ∧
    (∀ v, s.sched = .host (.wr 4 v) :: rest → step s = .next { s with bklen := v, sched := rest }) ∧
    (∀ v, v < 2 ^ 16 → s.sched = .host (.wr 5 v) :: rest →
      step s = .next { s with opb := BitVec.ofNat 16 v, sched := rest }) ∧
    (∀ reg v, reg = 1 ∨ 6 ≤ reg → s.sched = .host (.wr reg v) :: rest → step s = .next { s with sched := rest }) ∧
    (∀ p ∈ [(0, s.lcmd.toNat), (1, s.status.word.toNat), (2, s.klen), (3, s.mlen), (4, s.bklen), (5, s.opb.toNat),
        (6, s.res.toNat), (7, s.olen), (8, s.bidx), (9, s.totb), (10, s.intv)],
      s.sched = .host (.rd p.1) :: rest → step s = .next { s with sched := rest, rdata := .number p.2 }) ∧
    ∀ sp i, indexExists Config.params sp i = true → s.sched = .host (.rdb sp i) :: rest →
      step s = .next { s with sched := rest, rdata := .byte (s.byteAt Config.params sp i) }

/-- R61, R68: a byte the host loads into KEY or BKEY of an idle engine reads back, no other byte of any buffer changes, and
PERM and IPERM take no load. The schedule is the model's field (log entry 1), and the last clause, that every buffer keeps its
canonical form, is the model's own (log entry 9). -/
def Obligations.IdleBufferLoads : Prop :=
  ∀ (s : State) (rest : List Move) (sp : Space) (i : Nat) (b : Byte), s.cmdPort = none → s.status.busy = false →
    indexExists Config.params sp i = true → s.sched = .host (.ldb sp i b) :: rest →
    ∃ t, step s = .next t ∧ t = { s with sched := rest, key := t.key, bkey := t.bkey } ∧
      (∀ sp' j, t.byteAt Config.params sp' j =
        if (sp = .key ∨ sp = .bkey) ∧ sp' = sp ∧ j = i then b else s.byteAt Config.params sp' j) ∧
      ((∀ sp', (s.buffer sp').wf (s.fresh Config.params sp')) → ∀ sp', (t.buffer sp').wf (t.fresh Config.params sp'))

/-- R69: while busy, writes of registers other than CMD and loads of buffers change nothing, a read of STATUS is current, and
a read of anything else changes nothing of the machine. The schedule, the returned value and the count of free reads are the
model's fields (log entries 1, 10 and 11). -/
def Obligations.BusyHostAccess : Prop :=
  ∀ (s : State) (rest : List Move), s.cmdPort = none → s.status.busy = true →
    (∀ reg v, reg ≠ 0 → s.sched = .host (.wr reg v) :: rest → step s = .next { s with sched := rest }) ∧
    (∀ sp i b, s.sched = .host (.ldb sp i b) :: rest → step s = .next { s with sched := rest }) ∧
    (s.sched = .host (.rd 1) :: rest →
      step s = .next { s with sched := rest, rdata := .number s.status.word.toNat }) ∧
    (∀ reg, s.sched = .host (.rd reg) :: rest →
      ∃ d n, step s = .next { s with sched := rest, rdata := d, freeReads := n }) ∧
    ∀ sp i, s.sched = .host (.rdb sp i) :: rest →
      ∃ d n, step s = .next { s with sched := rest, rdata := d, freeReads := n }

/-- R21, R61: registers 11 and above, and buffer indices beyond the size, read 0 and take no write. The schedule and the
returned value are the model's fields (log entries 1 and 11); that they read 0 also while busy is an inference, against R69's
unspecified reads (log entry 10). -/
def Obligations.AbsentPlacesReadZero : Prop :=
  ∀ (s : State) (rest : List Move), s.cmdPort = none →
    (∀ reg, 11 ≤ reg → s.sched = .host (.rd reg) :: rest → step s = .next { s with sched := rest, rdata := .number 0 }) ∧
    (∀ reg v, 11 ≤ reg → s.sched = .host (.wr reg v) :: rest → step s = .next { s with sched := rest }) ∧
    ∀ sp i b, indexExists Config.params sp i = false →
      (s.sched = .host (.rdb sp i) :: rest → step s = .next { s with sched := rest, rdata := .byte 0 }) ∧
      (s.sched = .host (.ldb sp i b) :: rest → step s = .next { s with sched := rest })

/-- R39, R40, R41: the streams are first in, first out, and their ends work at any time, busy or idle. The schedule and the
returned value are the model's fields (log entries 1 and 11). -/
def Obligations.StreamPortsAreFifo : Prop :=
  ∀ (s : State) (rest : List Move), s.cmdPort = none →
    (∀ b, fits (s.inQ.length + 1) Config.params.inDepth → s.sched = .host (.push b) :: rest →
      step s = .next { s with sched := rest, inQ := s.inQ ++ [b] }) ∧
    (∀ b q, s.outQ = b :: q → s.sched = .host .pop :: rest →
      step s = .next { s with sched := rest, outQ := q, rdata := .byte b }) ∧
    ∀ r q, s.evtQ = r :: q → s.sched = .host .popevt :: rest →
      step s = .next { s with sched := rest, evtQ := q, rdata := .record r }

/-- R39 to R41, R70: a push to a full IN (of an idle engine, of one whose one enabled step is an abort, of one whose pushes wait,
and of one that has in IN all its next step takes, or takes nothing) and a pop of an empty OUT or EVT are not enabled, under any
instantiation; a push of a byte that the engine is waiting for is. A host move that is
not enabled waits at the head of the schedule and the engine moves. How the host waits is the model's choice (log entry 2), and
what a wanted byte does to the room in IN an inference (log entry 8). -/
def Obligations.DisabledHostMovesWait : Prop :=
  (∀ (P : Params) (s : State) (b : Byte),
    (s.status.busy = false → ¬ fits (s.inQ.length + 1) P.inDepth → hostMove P (.push b) s = none) ∧
    (∀ i, s.atStep → decode s.lcmd = .ok i → isStream i = true → s.status.abortreq = true →
      ¬ fits (s.inQ.length + 1) P.inDepth → hostMove P (.push b) s = none) ∧
    (s.status.busy = true → s.pend ≠ [] ∨ s.fin = true → ¬ fits (s.inQ.length + 1) P.inDepth →
      hostMove P (.push b) s = none) ∧
    (∀ i, s.atStep → decode s.lcmd = .ok i → stepTakes i s ≤ s.inQ.length → ¬ fits (s.inQ.length + 1) P.inDepth →
      hostMove P (.push b) s = none) ∧
    (∀ i, s.atStep → decode s.lcmd = .ok i → s.inQ.length < stepTakes i s →
      (isStream i = true → s.status.abortreq = false) → hostMove P (.push b) s = some { s with inQ := s.inQ ++ [b] }) ∧
    (s.outQ = [] → hostMove P .pop s = none) ∧ (s.evtQ = [] → hostMove P .popevt s = none)) ∧
  ∀ (s : State) (rest : List Move) (m : HostMove), s.cmdPort = none → s.sched = .host m :: rest →
    hostMove Config.params m { s with sched := rest } = none →
    (s.status.busy = false → step s = .next s) ∧
      ∀ i, s.status.busy = true → decode s.lcmd = .ok i → step s = exec i s

/-! ### Reset -/

/-- R46, R290: what reset leaves, busy or idle: the table's values; the unspecified buffer contents are those of a new reset.
The schedule and the host's last read value are the model's own and stay. The last three clauses and the free contents are
the model's choice (log entries 9 and 17). -/
def Obligations.ResetLeavesTheTable : Prop :=
  ∀ (s : State) (rest : List Move), s.cmdPort = none → s.sched = .host .reset :: rest →
    ∃ t, step s = .next t ∧ t.lcmd = 0 ∧ t.status.word = 0 ∧ t.klen = 0 ∧ t.mlen = 0 ∧ t.bklen = 0 ∧ t.opb = 0 ∧ t.res = 0 ∧
      t.olen = 0 ∧ t.bidx = 0 ∧ t.totb = 0 ∧ t.intv = 0 ∧ t.inQ = [] ∧ t.outQ = [] ∧ t.evtQ = [] ∧ t.pkt = .tail [] ∧ t.zbuf = [] ∧
      t.ltot = 0 ∧ t.started = false ∧ t.pend = [] ∧ t.fin = false ∧
      (∀ sp j, t.byteAt Config.params sp j = Config.params.resetByte (s.resets + 1) sp j) ∧ t.sched = rest ∧
      t.rdata = s.rdata ∧ t.freeReads = s.freeReads

/-- R291: what the first command after reset reports: ABORT is taken up, ENCB and DECB raise NO_TABLE, every other command
raises ZERO_KEY. The word is placed at CMD by withFetchWord, the model's form of the host's write (log entries 3 and 24). That
ABORT is only taken up by this step, and completes by the next, is an inference (R240, R243 a, log entry 22). -/
def Obligations.FirstCommandAfterReset : Prop :=
  ∀ i : Instr,
    step (State.reset.withFetchWord 32 (encode i).toNat) =
      .next (if i = .abort then { State.reset with lcmd := encode i, status := { Status.reset with busy := true } }
        else { State.reset with
          lcmd := encode i,
          status := { Status.reset with done := true, err := if i = .encb ∨ i = .decb then .noTable else .zeroKey } })

/-! ### The invariant -/

/-- The invariant holds after reset. -/
def Obligations.InvariantHoldsAtReset : Prop := State.reset.Inv Config.params

/-- Every step keeps the invariant: canonical buffers within their sizes, BUSY and DONE never both 1 (R23), the table
invariant (R38), an idle sequencer when idle, a legal command whose checks passed when busy (R240), the totals and the key
chain of a stream command (R201, R203), well-formed records (R206), the capacities of OUT and EVT (R40, R41), and the bounds that R78 gives PKT and, with C = 0, the
output held. That
buffers have one canonical form is the model's own clause (log entry 9). -/
def Obligations.EveryStepKeepsTheInvariant : Prop :=
  ∀ s t : State, s.Inv Config.params → step s = .next t → t.Inv Config.params

/-- From a state with the invariant a step goes on: nothing a command or the host does stops the machine. The one fault, in a
state without the invariant, is the model's choice (log entry 14). -/
def Obligations.InvariantStatesProceed : Prop := ∀ s : State, s.Inv Config.params → Proceeds (step s)

/-! ### Whole commands -/

/-- R71, R204, R205, R207, R212: for every capacity of the queues, a host that keeps draining OUT and EVT gets from SENC
exactly streamEncBytes of the (compressed) message and the records of its blocks, and the command completes with OLEN, BIDX
and TOTB as stated, having taken its MLEN bytes of IN. The host that pops after every engine move is one order of R73 (log
entries 1 and 7). -/
def Obligations.SencRunDeliversTheStream : Prop :=
  ∀ (c : Bool) (s : State), StreamReady Config.params (.senc c) s →
    let m := packed Config.params c (s.inQ.take s.mlen)
    ∃ k t, drainedRun k s [] [] =
        some (t, streamEncBytes Config.params m (s.keyBytes Config.params), streamRecords (totalBlocks m.length)) ∧
      t.status.busy = false ∧ t.status.done = true ∧ t.status.err = .noError ∧ t.olen = m.length ∧
      t.bidx = totalBlocks m.length ∧ t.totb = totalBlocks m.length ∧ t.inQ = s.inQ.drop s.mlen ∧ t.key = s.key ∧
      t.klen = s.klen

/-- R209, R213, R214: the same for SDEC: with C = 0 the decoded bytes; with C = 1 the decompressed message and the final
record, or, when it does not decompress, nothing on OUT, the periodic records only, and DECODE_FAILED. The host that pops
after every engine move is one order of R73 (log entries 1 and 7). The half with DECODE_FAILED speaks of the machine's own
parameters; SdecDecodeFailedPushesNothing has its final step under every instantiation, with a witness. -/
def Obligations.SdecRunDeliversTheMessage : Prop :=
  ∀ (c : Bool) (s : State), StreamReady Config.params (.sdec c) s →
    let d := streamDecBytes Config.params (s.inQ.take s.mlen) (s.keyBytes Config.params)
    let totb := totalBlocks s.mlen
    ∃ k t,
      (match unpacked Config.params c d with
        | some p => drainedRun k s [] [] = some (t, p, periodicRecords totb ++ [⟨1, 1, totb, totb⟩]) ∧
            t.status.err = .noError ∧ t.olen = p.length
        | none => drainedRun k s [] [] = some (t, [], periodicRecords totb) ∧ t.status.err = .decodeFailed ∧ t.olen = 0) ∧
      t.status.busy = false ∧ t.status.done = true ∧ t.bidx = totb ∧ t.inQ = s.inQ.drop s.mlen

/-- R215 a, on the machine: what SENC puts on OUT, fed to SDEC with the same key bytes, the same C and MLEN equal to its length,
gives back the message, with no error. The host that pops after every engine move is one order of R73 (log entries 1 and 7). -/
def Obligations.SdecUndoesSenc : Prop :=
  ∀ (c : Bool) (s : State), StreamReady Config.params (.senc c) s →
    ∃ k t out evt, drainedRun k s [] [] = some (t, out, evt) ∧ t.status.busy = false ∧
      ∀ u : State, StreamReady Config.params (.sdec c) u → u.keyBytes Config.params = s.keyBytes Config.params →
        u.mlen = out.length → u.inQ.take u.mlen = out →
        ∃ k' v evt', drainedRun k' u [] [] = some (v, s.inQ.take s.mlen, evt') ∧ v.status.busy = false ∧
          v.status.err = .noError
end

