-- ==== Sys2Proof/Laws/Memory.lean ====
section
/-!
SUPPORT. The byte buffers: what a read after a write gives, that every write keeps the canonical form, and where it leaves
entries.
-/

namespace Sys2Proof.Machine

variable {fresh : Nat → Byte}

theorem Memory.lookup_eq_none_of_lt {m : Memory} {i : Nat} (h : ∀ c ∈ m, c.1 ≠ i) : m.lookup i = none := by
  induction m with
  | nil => rfl
  | cons c m ih =>
    have hne : c.1 ≠ i := h c (by simp)
    have : (i == c.1) = false := by simp [Ne.symm hne]
    obtain ⟨j, b⟩ := c
    simp only [List.lookup_cons] at *
    simp [this, ih fun c hc => h c (by simp [hc])]

theorem Memory.lookup_append (m n : Memory) (i : Nat) : (m ++ n).lookup i = (m.lookup i).or (n.lookup i) := by
  induction m with
  | nil => simp
  | cons c m ih =>
    obtain ⟨j, b⟩ := c
    simp only [List.cons_append, List.lookup_cons]
    cases i == j <;> simp [ih]

theorem Memory.lookup_filter (m : Memory) (p : Nat → Bool) (i : Nat) :
    (m.filter (fun c => p c.1)).lookup i = if p i then m.lookup i else none := by
  induction m with
  | nil => simp
  | cons c m ih =>
    obtain ⟨j, b⟩ := c
    simp only [List.filter_cons, List.lookup_cons]
    by_cases hij : i = j
    · subst hij
      by_cases hp : p i <;> simp [hp, ih]
    · have : (i == j) = false := by simp [hij]
      by_cases hp : p j <;> simp [hp, List.lookup_cons, ih, this]

theorem Memory.mem_cells {a : Nat} {bs : Bytes} {c : Host.Cell} (h : c ∈ Memory.cells fresh a bs) :
    a ≤ c.1 ∧ c.1 < a + bs.length ∧ c.2 ≠ fresh c.1 := by
  induction bs generalizing a with
  | nil => simp [Memory.cells] at h
  | cons b bs ih =>
    simp only [Memory.cells] at h
    split at h
    · obtain ⟨h1, h2, h3⟩ := ih h
      exact ⟨by omega, by simp; omega, h3⟩
    · rename_i hb
      rcases List.mem_cons.1 h with rfl | h
      · exact ⟨le_rfl, by simp, hb⟩
      · obtain ⟨h1, h2, h3⟩ := ih h
        exact ⟨by omega, by simp; omega, h3⟩

theorem Memory.cells_sorted (a : Nat) (bs : Bytes) :
    (Memory.cells fresh a bs).Pairwise (fun c d => c.1 < d.1) := by
  induction bs generalizing a with
  | nil => simp [Memory.cells]
  | cons b bs ih =>
    simp only [Memory.cells]
    split
    · exact ih _
    · refine List.pairwise_cons.2 ⟨fun c hc => ?_, ih _⟩
      have := (Memory.mem_cells hc).1
      simp only
      omega

/-- What the entries of freshly written bytes read as. -/
theorem Memory.read_cells (a : Nat) (bs : Bytes) (i : Nat) :
    ((Memory.cells fresh a bs).lookup i).getD (fresh i) =
      if a ≤ i ∧ i < a + bs.length then bs.getD (i - a) 0 else fresh i := by
  induction bs generalizing a with
  | nil => simp [Memory.cells]
  | cons b bs ih =>
    have hstep : ((Memory.cells fresh (a + 1) bs).lookup i).getD (fresh i) =
        if a + 1 ≤ i ∧ i < a + 1 + bs.length then bs.getD (i - (a + 1)) 0 else fresh i := ih (a + 1)
    by_cases hia : i = a
    · subst hia
      have hnone : (Memory.cells fresh (i + 1) bs).lookup i = none :=
        Memory.lookup_eq_none_of_lt fun c hc => by have := (Memory.mem_cells hc).1; omega
      simp only [Memory.cells]
      split <;> simp_all
    · have hcond : (a ≤ i ∧ i < a + (b :: bs).length) ↔ (a + 1 ≤ i ∧ i < a + 1 + bs.length) := by
        simp only [List.length_cons]; omega
      have hget : a + 1 ≤ i → (b :: bs).getD (i - a) 0 = bs.getD (i - (a + 1)) 0 := by
        intro h
        obtain ⟨k, rfl⟩ : ∃ k, i = a + 1 + k := ⟨i - (a + 1), by omega⟩
        have h1 : a + 1 + k - a = k + 1 := by omega
        have h2 : a + 1 + k - (a + 1) = k := by omega
        simp [h1, h2]
      have hne : (i == a) = false := by simp [hia]
      simp only [Memory.cells]
      by_cases hb : b = fresh a
      · rw [if_pos hb, hstep]
        by_cases hc : a + 1 ≤ i ∧ i < a + 1 + bs.length
        · rw [if_pos hc, if_pos (hcond.2 hc), hget hc.1]
        · rw [if_neg hc, if_neg (fun h => hc (hcond.1 h))]
      · rw [if_neg hb, List.lookup_cons, hne]
        simp only
        rw [hstep]
        by_cases hc : a + 1 ≤ i ∧ i < a + 1 + bs.length
        · rw [if_pos hc, if_pos (hcond.2 hc), hget hc.1]
        · rw [if_neg hc, if_neg (fun h => hc (hcond.1 h))]

/-- Reading after `MemWrite`: the written bytes in their range, everything else as before. -/
theorem Memory.read_writeBytes (m : Memory) (a : Nat) (bs : Bytes) (i : Nat) :
    (m.writeBytes fresh a bs).read fresh i =
      if a ≤ i ∧ i < a + bs.length then bs.getD (i - a) 0 else m.read fresh i := by
  have hcells := Memory.read_cells (fresh := fresh) a bs i
  simp only [Memory.read, Memory.writeBytes, Memory.lookup_append]
  rw [Memory.lookup_filter m (fun j => decide (j < a)), Memory.lookup_filter m (fun j => decide (a + bs.length ≤ j))]
  by_cases h1 : i < a
  · have hnone : (Memory.cells fresh a bs).lookup i = none :=
      Memory.lookup_eq_none_of_lt fun c hc => by have := (Memory.mem_cells hc).1; omega
    have h2 : ¬ a + bs.length ≤ i := by omega
    have h3 : ¬ (a ≤ i ∧ i < a + bs.length) := by omega
    simp [h1, h2, h3, hnone]
  · by_cases h2 : a + bs.length ≤ i
    · have hnone : (Memory.cells fresh a bs).lookup i = none :=
        Memory.lookup_eq_none_of_lt fun c hc => by have := (Memory.mem_cells hc).2.1; omega
      have h3 : ¬ (a ≤ i ∧ i < a + bs.length) := by omega
      simp [h1, h2, h3, hnone]
    · have h3 : a ≤ i ∧ i < a + bs.length := by omega
      rw [if_pos h3] at hcells
      simp only [h1, h2, h3, decide_false, Bool.false_eq_true, if_false, if_true, and_self]
      simpa using hcells

/-- Reading after one byte is written. -/
theorem Memory.read_write (m : Memory) (j : Nat) (b : Byte) (i : Nat) :
    (m.write fresh j b).read fresh i = if i = j then b else m.read fresh i := by
  rw [Memory.write, Memory.read_writeBytes]
  by_cases h : i = j
  · subst h; simp
  · have : ¬ (j ≤ i ∧ i < j + [b].length) := by simp; omega
    rw [if_neg this, if_neg h]

/-- Where a write leaves entries. -/
theorem Memory.mem_writeBytes {m : Memory} {a : Nat} {bs : Bytes} {c : Host.Cell}
    (h : c ∈ m.writeBytes fresh a bs) :
    c ∈ m ∨ (a ≤ c.1 ∧ c.1 < a + bs.length ∧ c.2 ≠ fresh c.1) := by
  simp only [Memory.writeBytes, List.mem_append, List.mem_filter] at h
  rcases h with (h | h) | h
  · exact .inl h.1
  · exact .inr (Memory.mem_cells h)
  · exact .inl h.1

theorem Memory.wf_nil : Memory.wf fresh [] := by simp [Memory.wf]

/-- Every write keeps the canonical form. -/
theorem Memory.wf_writeBytes {m : Memory} (h : Memory.wf fresh m) (a : Nat) (bs : Bytes) :
    Memory.wf fresh (m.writeBytes fresh a bs) := by
  obtain ⟨hs, hv⟩ := h
  refine ⟨?_, fun c hc => ?_⟩
  · simp only [Memory.writeBytes]
    refine List.pairwise_append.2 ⟨List.pairwise_append.2 ⟨hs.filter _, Memory.cells_sorted a bs, ?_⟩, hs.filter _, ?_⟩
    · intro c hc d hd
      have h1 := (List.mem_filter.1 hc).2
      have h2 := (Memory.mem_cells hd).1
      simp at h1; omega
    · intro c hc d hd
      have h2 := (List.mem_filter.1 hd).2
      simp only [decide_eq_true_eq] at h2
      rcases List.mem_append.1 hc with hc | hc
      · have h1 := (List.mem_filter.1 hc).2
        simp at h1; omega
      · have h1 := (Memory.mem_cells hc).2.1
        omega
  · rcases Memory.mem_writeBytes hc with hc | hc
    · exact hv c hc
    · exact hc.2.2

theorem Memory.wf_write {m : Memory} (h : Memory.wf fresh m) (i : Nat) (b : Byte) :
    Memory.wf fresh (m.write fresh i b) := Memory.wf_writeBytes h i [b]

@[simp] theorem Memory.readBytes_length (m : Memory) (a n : Nat) : (m.readBytes fresh a n).length = n := by
  simp [Memory.readBytes]

/-- Reading back exactly the bytes written. -/
theorem Memory.readBytes_writeBytes (m : Memory) (a : Nat) (bs : Bytes) :
    (m.writeBytes fresh a bs).readBytes fresh a bs.length = bs := by
  refine List.ext_getElem (by simp) fun i h1 h2 => ?_
  simp only [Memory.readBytes, List.getElem_map, List.getElem_range']
  rw [Memory.read_writeBytes, if_pos ⟨by omega, by simp at h1; omega⟩]
  simp [h2]

/-- An element of bytes read from a buffer. -/
theorem Memory.getD_readBytes (m : Memory) (a n i : Nat) (h : i < n) :
    (m.readBytes fresh a n).getD i 0 = m.read fresh (a + i) := by
  simp [Memory.readBytes, h]

/-- Two canonical buffers that read alike are equal data. -/
theorem Memory.wf_ext {m n : Memory} (hm : Memory.wf fresh m) (hn : Memory.wf fresh n)
    (h : ∀ i, m.read fresh i = n.read fresh i) : m = n := by
  induction m generalizing n with
  | nil =>
    cases n with
    | nil => rfl
    | cons d n =>
      obtain ⟨j, b⟩ := d
      have := h j
      simp [Memory.read] at this
      exact absurd this.symm (hn.2 (j, b) (by simp))
  | cons c m ih =>
    have tailOf : ∀ {x : Host.Cell} {l : Memory}, Memory.wf fresh (x :: l) →
        Memory.wf fresh l ∧ ∀ d ∈ l, x.1 < d.1 := fun hx =>
      ⟨⟨(List.pairwise_cons.1 hx.1).2, fun c hc => hx.2 c (by simp [hc])⟩, (List.pairwise_cons.1 hx.1).1⟩
    have headRead : ∀ {x : Host.Cell} {l : Memory}, Memory.read fresh (x :: l) x.1 = x.2 := by
      rintro ⟨j, b⟩ l; simp [Memory.read]
    have below : ∀ {l : Memory} {i : Nat}, (∀ d ∈ l, i < d.1) → Memory.read fresh l i = fresh i := by
      intro l i hl
      simp [Memory.read, Memory.lookup_eq_none_of_lt fun d hd => (Nat.ne_of_gt (hl d hd))]
    cases n with
    | nil =>
      have := h c.1
      rw [headRead] at this
      simp [Memory.read] at this
      exact absurd this (hm.2 c (by simp))
    | cons d n =>
      obtain ⟨hmt, hml⟩ := tailOf hm
      obtain ⟨hnt, hnl⟩ := tailOf hn
      have hcd : c.1 = d.1 := by
        rcases Nat.lt_trichotomy c.1 d.1 with hlt | heq | hgt
        · have := h c.1
          rw [headRead, below fun e he => by
            rcases List.mem_cons.1 he with rfl | he
            · exact hlt
            · exact lt_trans hlt (hnl e he)] at this
          exact absurd this (hm.2 c (by simp))
        · exact heq
        · have := h d.1
          rw [headRead, below fun e he => by
            rcases List.mem_cons.1 he with rfl | he
            · exact hgt
            · exact lt_trans hgt (hml e he)] at this
          exact absurd this.symm (hn.2 d (by simp))
      have hv : c.2 = d.2 := by
        have := h c.1
        rwa [headRead, hcd, headRead] at this
      have hcell : c = d := Prod.ext hcd hv
      subst hcell
      have : m = n := ih hmt hnt fun i => by
        by_cases hi : i = c.1
        · subst hi
          rw [below hml, below hnl]
        · have := h i
          have hne : (i == c.1) = false := by simp [hi]
          obtain ⟨j, b⟩ := c
          simpa [Memory.read, List.lookup_cons, hne] using this
      rw [this]

end Sys2Proof.Machine
end

