-- ==== Sys2Proof/Laws/State.lean ====
section
/-!
SUPPORT. One lemma for each field of each named update, true by rfl, so that no later proof unfolds a record update.
-/

namespace Sys2Proof.Machine

@[simp] theorem Status.cleared_busy (f : Status) : f.cleared.busy = f.busy := rfl
@[simp] theorem Status.cleared_done (f : Status) : f.cleared.done = false := rfl
@[simp] theorem Status.cleared_pvalid (f : Status) : f.cleared.pvalid = f.pvalid := rfl
@[simp] theorem Status.cleared_abortreq (f : Status) : f.cleared.abortreq = f.abortreq := rfl
@[simp] theorem Status.cleared_err (f : Status) : f.cleared.err = .noError := rfl
@[simp] theorem Status.cleared_aborted (f : Status) : f.cleared.aborted = false := rfl

@[simp] theorem Status.begun_busy (f : Status) : f.begun.busy = true := rfl
@[simp] theorem Status.begun_done (f : Status) : f.begun.done = f.done := rfl
@[simp] theorem Status.begun_pvalid (f : Status) : f.begun.pvalid = f.pvalid := rfl
@[simp] theorem Status.begun_abortreq (f : Status) : f.begun.abortreq = f.abortreq := rfl
@[simp] theorem Status.begun_err (f : Status) : f.begun.err = f.err := rfl
@[simp] theorem Status.begun_aborted (f : Status) : f.begun.aborted = f.aborted := rfl

@[simp] theorem Status.completed_busy (f : Status) : f.completed.busy = false := rfl
@[simp] theorem Status.completed_done (f : Status) : f.completed.done = true := rfl
@[simp] theorem Status.completed_pvalid (f : Status) : f.completed.pvalid = f.pvalid := rfl
@[simp] theorem Status.completed_abortreq (f : Status) : f.completed.abortreq = false := rfl
@[simp] theorem Status.completed_err (f : Status) : f.completed.err = f.err := rfl
@[simp] theorem Status.completed_aborted (f : Status) : f.completed.aborted = f.aborted := rfl

@[simp] theorem Status.failed_busy (e : ErrCode) (f : Status) : (f.failed e).busy = false := rfl
@[simp] theorem Status.failed_done (e : ErrCode) (f : Status) : (f.failed e).done = true := rfl
@[simp] theorem Status.failed_pvalid (e : ErrCode) (f : Status) : (f.failed e).pvalid = f.pvalid := rfl
@[simp] theorem Status.failed_abortreq (e : ErrCode) (f : Status) : (f.failed e).abortreq = false := rfl
@[simp] theorem Status.failed_err (e : ErrCode) (f : Status) : (f.failed e).err = e := rfl
@[simp] theorem Status.failed_aborted (e : ErrCode) (f : Status) : (f.failed e).aborted = f.aborted := rfl

@[simp] theorem Status.stopped_busy (f : Status) : f.stopped.busy = false := rfl
@[simp] theorem Status.stopped_done (f : Status) : f.stopped.done = true := rfl
@[simp] theorem Status.stopped_pvalid (f : Status) : f.stopped.pvalid = f.pvalid := rfl
@[simp] theorem Status.stopped_abortreq (f : Status) : f.stopped.abortreq = false := rfl
@[simp] theorem Status.stopped_err (f : Status) : f.stopped.err = f.err := rfl
@[simp] theorem Status.stopped_aborted (f : Status) : f.stopped.aborted = true := rfl

@[simp] theorem Status.abortRequested_busy (f : Status) : f.abortRequested.busy = f.busy := rfl
@[simp] theorem Status.abortRequested_done (f : Status) : f.abortRequested.done = f.done := rfl
@[simp] theorem Status.abortRequested_pvalid (f : Status) : f.abortRequested.pvalid = f.pvalid := rfl
@[simp] theorem Status.abortRequested_abortreq (f : Status) : f.abortRequested.abortreq = true := rfl
@[simp] theorem Status.abortRequested_err (f : Status) : f.abortRequested.err = f.err := rfl
@[simp] theorem Status.abortRequested_aborted (f : Status) : f.abortRequested.aborted = f.aborted := rfl

@[simp] theorem Status.tablesValid_busy (f : Status) : f.tablesValid.busy = f.busy := rfl
@[simp] theorem Status.tablesValid_done (f : Status) : f.tablesValid.done = f.done := rfl
@[simp] theorem Status.tablesValid_pvalid (f : Status) : f.tablesValid.pvalid = true := rfl
@[simp] theorem Status.tablesValid_abortreq (f : Status) : f.tablesValid.abortreq = f.abortreq := rfl
@[simp] theorem Status.tablesValid_err (f : Status) : f.tablesValid.err = f.err := rfl
@[simp] theorem Status.tablesValid_aborted (f : Status) : f.tablesValid.aborted = f.aborted := rfl

@[simp] theorem State.raise_lcmd (e : ErrCode) (s : State) : (s.raise e).lcmd = s.lcmd := rfl
@[simp] theorem State.raise_status (e : ErrCode) (s : State) : (s.raise e).status = s.status.failed e := rfl
@[simp] theorem State.raise_klen (e : ErrCode) (s : State) : (s.raise e).klen = s.klen := rfl
@[simp] theorem State.raise_mlen (e : ErrCode) (s : State) : (s.raise e).mlen = s.mlen := rfl
@[simp] theorem State.raise_bklen (e : ErrCode) (s : State) : (s.raise e).bklen = s.bklen := rfl
@[simp] theorem State.raise_opb (e : ErrCode) (s : State) : (s.raise e).opb = s.opb := rfl
@[simp] theorem State.raise_res (e : ErrCode) (s : State) : (s.raise e).res = s.res := rfl
@[simp] theorem State.raise_olen (e : ErrCode) (s : State) : (s.raise e).olen = s.olen := rfl
@[simp] theorem State.raise_bidx (e : ErrCode) (s : State) : (s.raise e).bidx = s.bidx := rfl
@[simp] theorem State.raise_totb (e : ErrCode) (s : State) : (s.raise e).totb = s.totb := rfl
@[simp] theorem State.raise_intv (e : ErrCode) (s : State) : (s.raise e).intv = s.intv := rfl
@[simp] theorem State.raise_key (e : ErrCode) (s : State) : (s.raise e).key = s.key := rfl
@[simp] theorem State.raise_bkey (e : ErrCode) (s : State) : (s.raise e).bkey = s.bkey := rfl
@[simp] theorem State.raise_perm (e : ErrCode) (s : State) : (s.raise e).perm = s.perm := rfl
@[simp] theorem State.raise_iperm (e : ErrCode) (s : State) : (s.raise e).iperm = s.iperm := rfl
@[simp] theorem State.raise_inQ (e : ErrCode) (s : State) : (s.raise e).inQ = s.inQ := rfl
@[simp] theorem State.raise_outQ (e : ErrCode) (s : State) : (s.raise e).outQ = s.outQ := rfl
@[simp] theorem State.raise_evtQ (e : ErrCode) (s : State) : (s.raise e).evtQ = s.evtQ := rfl
@[simp] theorem State.raise_pkt (e : ErrCode) (s : State) : (s.raise e).pkt = s.pkt := rfl
@[simp] theorem State.raise_ltot (e : ErrCode) (s : State) : (s.raise e).ltot = s.ltot := rfl
@[simp] theorem State.raise_zbuf (e : ErrCode) (s : State) : (s.raise e).zbuf = s.zbuf := rfl
@[simp] theorem State.raise_started (e : ErrCode) (s : State) : (s.raise e).started = false := rfl
@[simp] theorem State.raise_pend (e : ErrCode) (s : State) : (s.raise e).pend = [] := rfl
@[simp] theorem State.raise_fin (e : ErrCode) (s : State) : (s.raise e).fin = false := rfl
@[simp] theorem State.raise_cmdPort (e : ErrCode) (s : State) : (s.raise e).cmdPort = s.cmdPort := rfl
@[simp] theorem State.raise_sched (e : ErrCode) (s : State) : (s.raise e).sched = s.sched := rfl
@[simp] theorem State.raise_rdata (e : ErrCode) (s : State) : (s.raise e).rdata = s.rdata := rfl
@[simp] theorem State.raise_resets (e : ErrCode) (s : State) : (s.raise e).resets = s.resets := rfl
@[simp] theorem State.raise_freeReads (e : ErrCode) (s : State) : (s.raise e).freeReads = s.freeReads := rfl

@[simp] theorem State.latch_lcmd (w : Word) (s : State) : (s.latch w).lcmd = w := rfl
@[simp] theorem State.latch_status (w : Word) (s : State) : (s.latch w).status = s.status.cleared := rfl
@[simp] theorem State.latch_klen (w : Word) (s : State) : (s.latch w).klen = s.klen := rfl
@[simp] theorem State.latch_mlen (w : Word) (s : State) : (s.latch w).mlen = s.mlen := rfl
@[simp] theorem State.latch_bklen (w : Word) (s : State) : (s.latch w).bklen = s.bklen := rfl
@[simp] theorem State.latch_opb (w : Word) (s : State) : (s.latch w).opb = s.opb := rfl
@[simp] theorem State.latch_res (w : Word) (s : State) : (s.latch w).res = s.res := rfl
@[simp] theorem State.latch_olen (w : Word) (s : State) : (s.latch w).olen = s.olen := rfl
@[simp] theorem State.latch_bidx (w : Word) (s : State) : (s.latch w).bidx = s.bidx := rfl
@[simp] theorem State.latch_totb (w : Word) (s : State) : (s.latch w).totb = s.totb := rfl
@[simp] theorem State.latch_intv (w : Word) (s : State) : (s.latch w).intv = s.intv := rfl
@[simp] theorem State.latch_key (w : Word) (s : State) : (s.latch w).key = s.key := rfl
@[simp] theorem State.latch_bkey (w : Word) (s : State) : (s.latch w).bkey = s.bkey := rfl
@[simp] theorem State.latch_perm (w : Word) (s : State) : (s.latch w).perm = s.perm := rfl
@[simp] theorem State.latch_iperm (w : Word) (s : State) : (s.latch w).iperm = s.iperm := rfl
@[simp] theorem State.latch_inQ (w : Word) (s : State) : (s.latch w).inQ = s.inQ := rfl
@[simp] theorem State.latch_outQ (w : Word) (s : State) : (s.latch w).outQ = s.outQ := rfl
@[simp] theorem State.latch_evtQ (w : Word) (s : State) : (s.latch w).evtQ = s.evtQ := rfl
@[simp] theorem State.latch_pkt (w : Word) (s : State) : (s.latch w).pkt = s.pkt := rfl
@[simp] theorem State.latch_ltot (w : Word) (s : State) : (s.latch w).ltot = s.ltot := rfl
@[simp] theorem State.latch_zbuf (w : Word) (s : State) : (s.latch w).zbuf = s.zbuf := rfl
@[simp] theorem State.latch_started (w : Word) (s : State) : (s.latch w).started = s.started := rfl
@[simp] theorem State.latch_pend (w : Word) (s : State) : (s.latch w).pend = s.pend := rfl
@[simp] theorem State.latch_fin (w : Word) (s : State) : (s.latch w).fin = s.fin := rfl
@[simp] theorem State.latch_cmdPort (w : Word) (s : State) : (s.latch w).cmdPort = s.cmdPort := rfl
@[simp] theorem State.latch_sched (w : Word) (s : State) : (s.latch w).sched = s.sched := rfl
@[simp] theorem State.latch_rdata (w : Word) (s : State) : (s.latch w).rdata = s.rdata := rfl
@[simp] theorem State.latch_resets (w : Word) (s : State) : (s.latch w).resets = s.resets := rfl
@[simp] theorem State.latch_freeReads (w : Word) (s : State) : (s.latch w).freeReads = s.freeReads := rfl

@[simp] theorem State.complete_lcmd (s : State) : s.complete.lcmd = s.lcmd := rfl
@[simp] theorem State.complete_status (s : State) : s.complete.status = s.status.completed := rfl
@[simp] theorem State.complete_klen (s : State) : s.complete.klen = s.klen := rfl
@[simp] theorem State.complete_mlen (s : State) : s.complete.mlen = s.mlen := rfl
@[simp] theorem State.complete_bklen (s : State) : s.complete.bklen = s.bklen := rfl
@[simp] theorem State.complete_opb (s : State) : s.complete.opb = s.opb := rfl
@[simp] theorem State.complete_res (s : State) : s.complete.res = s.res := rfl
@[simp] theorem State.complete_olen (s : State) : s.complete.olen = s.olen := rfl
@[simp] theorem State.complete_bidx (s : State) : s.complete.bidx = s.bidx := rfl
@[simp] theorem State.complete_totb (s : State) : s.complete.totb = s.totb := rfl
@[simp] theorem State.complete_intv (s : State) : s.complete.intv = s.intv := rfl
@[simp] theorem State.complete_key (s : State) : s.complete.key = s.key := rfl
@[simp] theorem State.complete_bkey (s : State) : s.complete.bkey = s.bkey := rfl
@[simp] theorem State.complete_perm (s : State) : s.complete.perm = s.perm := rfl
@[simp] theorem State.complete_iperm (s : State) : s.complete.iperm = s.iperm := rfl
@[simp] theorem State.complete_inQ (s : State) : s.complete.inQ = s.inQ := rfl
@[simp] theorem State.complete_outQ (s : State) : s.complete.outQ = s.outQ := rfl
@[simp] theorem State.complete_evtQ (s : State) : s.complete.evtQ = s.evtQ := rfl
@[simp] theorem State.complete_pkt (s : State) : s.complete.pkt = s.pkt := rfl
@[simp] theorem State.complete_ltot (s : State) : s.complete.ltot = s.ltot := rfl
@[simp] theorem State.complete_zbuf (s : State) : s.complete.zbuf = s.zbuf := rfl
@[simp] theorem State.complete_started (s : State) : s.complete.started = false := rfl
@[simp] theorem State.complete_pend (s : State) : s.complete.pend = s.pend := rfl
@[simp] theorem State.complete_fin (s : State) : s.complete.fin = false := rfl
@[simp] theorem State.complete_cmdPort (s : State) : s.complete.cmdPort = s.cmdPort := rfl
@[simp] theorem State.complete_sched (s : State) : s.complete.sched = s.sched := rfl
@[simp] theorem State.complete_rdata (s : State) : s.complete.rdata = s.rdata := rfl
@[simp] theorem State.complete_resets (s : State) : s.complete.resets = s.resets := rfl
@[simp] theorem State.complete_freeReads (s : State) : s.complete.freeReads = s.freeReads := rfl

@[simp] theorem State.abortStep_lcmd (s : State) : s.abortStep.lcmd = s.lcmd := rfl
@[simp] theorem State.abortStep_status (s : State) : s.abortStep.status = s.status.stopped := rfl
@[simp] theorem State.abortStep_klen (s : State) : s.abortStep.klen = s.klen := rfl
@[simp] theorem State.abortStep_mlen (s : State) : s.abortStep.mlen = s.mlen := rfl
@[simp] theorem State.abortStep_bklen (s : State) : s.abortStep.bklen = s.bklen := rfl
@[simp] theorem State.abortStep_opb (s : State) : s.abortStep.opb = s.opb := rfl
@[simp] theorem State.abortStep_res (s : State) : s.abortStep.res = s.res := rfl
@[simp] theorem State.abortStep_olen (s : State) : s.abortStep.olen = s.olen := rfl
@[simp] theorem State.abortStep_bidx (s : State) : s.abortStep.bidx = s.bidx := rfl
@[simp] theorem State.abortStep_totb (s : State) : s.abortStep.totb = s.totb := rfl
@[simp] theorem State.abortStep_intv (s : State) : s.abortStep.intv = s.intv := rfl
@[simp] theorem State.abortStep_key (s : State) : s.abortStep.key = s.key := rfl
@[simp] theorem State.abortStep_bkey (s : State) : s.abortStep.bkey = s.bkey := rfl
@[simp] theorem State.abortStep_perm (s : State) : s.abortStep.perm = s.perm := rfl
@[simp] theorem State.abortStep_iperm (s : State) : s.abortStep.iperm = s.iperm := rfl
@[simp] theorem State.abortStep_inQ (s : State) : s.abortStep.inQ = s.inQ := rfl
@[simp] theorem State.abortStep_outQ (s : State) : s.abortStep.outQ = s.outQ := rfl
@[simp] theorem State.abortStep_evtQ (s : State) : s.abortStep.evtQ = s.evtQ := rfl
@[simp] theorem State.abortStep_pkt (s : State) : s.abortStep.pkt = s.pkt := rfl
@[simp] theorem State.abortStep_ltot (s : State) : s.abortStep.ltot = s.ltot := rfl
@[simp] theorem State.abortStep_zbuf (s : State) : s.abortStep.zbuf = s.zbuf := rfl
@[simp] theorem State.abortStep_started (s : State) : s.abortStep.started = false := rfl
@[simp] theorem State.abortStep_pend (s : State) : s.abortStep.pend = s.pend := rfl
@[simp] theorem State.abortStep_fin (s : State) : s.abortStep.fin = s.fin := rfl
@[simp] theorem State.abortStep_cmdPort (s : State) : s.abortStep.cmdPort = s.cmdPort := rfl
@[simp] theorem State.abortStep_sched (s : State) : s.abortStep.sched = s.sched := rfl
@[simp] theorem State.abortStep_rdata (s : State) : s.abortStep.rdata = s.rdata := rfl
@[simp] theorem State.abortStep_resets (s : State) : s.abortStep.resets = s.resets := rfl
@[simp] theorem State.abortStep_freeReads (s : State) : s.abortStep.freeReads = s.freeReads := rfl

@[simp] theorem State.emit_lcmd (ps : List Push) (s : State) : (s.emit ps).lcmd = s.lcmd := rfl
@[simp] theorem State.emit_status (ps : List Push) (s : State) : (s.emit ps).status = s.status := rfl
@[simp] theorem State.emit_klen (ps : List Push) (s : State) : (s.emit ps).klen = s.klen := rfl
@[simp] theorem State.emit_mlen (ps : List Push) (s : State) : (s.emit ps).mlen = s.mlen := rfl
@[simp] theorem State.emit_bklen (ps : List Push) (s : State) : (s.emit ps).bklen = s.bklen := rfl
@[simp] theorem State.emit_opb (ps : List Push) (s : State) : (s.emit ps).opb = s.opb := rfl
@[simp] theorem State.emit_res (ps : List Push) (s : State) : (s.emit ps).res = s.res := rfl
@[simp] theorem State.emit_olen (ps : List Push) (s : State) : (s.emit ps).olen = s.olen := rfl
@[simp] theorem State.emit_bidx (ps : List Push) (s : State) : (s.emit ps).bidx = s.bidx := rfl
@[simp] theorem State.emit_totb (ps : List Push) (s : State) : (s.emit ps).totb = s.totb := rfl
@[simp] theorem State.emit_intv (ps : List Push) (s : State) : (s.emit ps).intv = s.intv := rfl
@[simp] theorem State.emit_key (ps : List Push) (s : State) : (s.emit ps).key = s.key := rfl
@[simp] theorem State.emit_bkey (ps : List Push) (s : State) : (s.emit ps).bkey = s.bkey := rfl
@[simp] theorem State.emit_perm (ps : List Push) (s : State) : (s.emit ps).perm = s.perm := rfl
@[simp] theorem State.emit_iperm (ps : List Push) (s : State) : (s.emit ps).iperm = s.iperm := rfl
@[simp] theorem State.emit_inQ (ps : List Push) (s : State) : (s.emit ps).inQ = s.inQ := rfl
@[simp] theorem State.emit_outQ (ps : List Push) (s : State) : (s.emit ps).outQ = s.outQ := rfl
@[simp] theorem State.emit_evtQ (ps : List Push) (s : State) : (s.emit ps).evtQ = s.evtQ := rfl
@[simp] theorem State.emit_pkt (ps : List Push) (s : State) : (s.emit ps).pkt = s.pkt := rfl
@[simp] theorem State.emit_ltot (ps : List Push) (s : State) : (s.emit ps).ltot = s.ltot := rfl
@[simp] theorem State.emit_zbuf (ps : List Push) (s : State) : (s.emit ps).zbuf = s.zbuf := rfl
@[simp] theorem State.emit_started (ps : List Push) (s : State) : (s.emit ps).started = s.started := rfl
@[simp] theorem State.emit_pend (ps : List Push) (s : State) : (s.emit ps).pend = s.pend ++ ps := rfl
@[simp] theorem State.emit_fin (ps : List Push) (s : State) : (s.emit ps).fin = s.fin := rfl
@[simp] theorem State.emit_cmdPort (ps : List Push) (s : State) : (s.emit ps).cmdPort = s.cmdPort := rfl
@[simp] theorem State.emit_sched (ps : List Push) (s : State) : (s.emit ps).sched = s.sched := rfl
@[simp] theorem State.emit_rdata (ps : List Push) (s : State) : (s.emit ps).rdata = s.rdata := rfl
@[simp] theorem State.emit_resets (ps : List Push) (s : State) : (s.emit ps).resets = s.resets := rfl
@[simp] theorem State.emit_freeReads (ps : List Push) (s : State) : (s.emit ps).freeReads = s.freeReads := rfl

@[simp] theorem State.finish_lcmd (s : State) : s.finish.lcmd = s.lcmd := rfl
@[simp] theorem State.finish_status (s : State) : s.finish.status = s.status := rfl
@[simp] theorem State.finish_klen (s : State) : s.finish.klen = s.klen := rfl
@[simp] theorem State.finish_mlen (s : State) : s.finish.mlen = s.mlen := rfl
@[simp] theorem State.finish_bklen (s : State) : s.finish.bklen = s.bklen := rfl
@[simp] theorem State.finish_opb (s : State) : s.finish.opb = s.opb := rfl
@[simp] theorem State.finish_res (s : State) : s.finish.res = s.res := rfl
@[simp] theorem State.finish_olen (s : State) : s.finish.olen = s.olen := rfl
@[simp] theorem State.finish_bidx (s : State) : s.finish.bidx = s.bidx := rfl
@[simp] theorem State.finish_totb (s : State) : s.finish.totb = s.totb := rfl
@[simp] theorem State.finish_intv (s : State) : s.finish.intv = s.intv := rfl
@[simp] theorem State.finish_key (s : State) : s.finish.key = s.key := rfl
@[simp] theorem State.finish_bkey (s : State) : s.finish.bkey = s.bkey := rfl
@[simp] theorem State.finish_perm (s : State) : s.finish.perm = s.perm := rfl
@[simp] theorem State.finish_iperm (s : State) : s.finish.iperm = s.iperm := rfl
@[simp] theorem State.finish_inQ (s : State) : s.finish.inQ = s.inQ := rfl
@[simp] theorem State.finish_outQ (s : State) : s.finish.outQ = s.outQ := rfl
@[simp] theorem State.finish_evtQ (s : State) : s.finish.evtQ = s.evtQ := rfl
@[simp] theorem State.finish_pkt (s : State) : s.finish.pkt = s.pkt := rfl
@[simp] theorem State.finish_ltot (s : State) : s.finish.ltot = s.ltot := rfl
@[simp] theorem State.finish_zbuf (s : State) : s.finish.zbuf = s.zbuf := rfl
@[simp] theorem State.finish_started (s : State) : s.finish.started = s.started := rfl
@[simp] theorem State.finish_pend (s : State) : s.finish.pend = s.pend := rfl
@[simp] theorem State.finish_fin (s : State) : s.finish.fin = true := rfl
@[simp] theorem State.finish_cmdPort (s : State) : s.finish.cmdPort = s.cmdPort := rfl
@[simp] theorem State.finish_sched (s : State) : s.finish.sched = s.sched := rfl
@[simp] theorem State.finish_rdata (s : State) : s.finish.rdata = s.rdata := rfl
@[simp] theorem State.finish_resets (s : State) : s.finish.resets = s.resets := rfl
@[simp] theorem State.finish_freeReads (s : State) : s.finish.freeReads = s.freeReads := rfl

@[simp] theorem State.dropIn_lcmd (n : Nat) (s : State) : (s.dropIn n).lcmd = s.lcmd := rfl
@[simp] theorem State.dropIn_status (n : Nat) (s : State) : (s.dropIn n).status = s.status := rfl
@[simp] theorem State.dropIn_klen (n : Nat) (s : State) : (s.dropIn n).klen = s.klen := rfl
@[simp] theorem State.dropIn_mlen (n : Nat) (s : State) : (s.dropIn n).mlen = s.mlen := rfl
@[simp] theorem State.dropIn_bklen (n : Nat) (s : State) : (s.dropIn n).bklen = s.bklen := rfl
@[simp] theorem State.dropIn_opb (n : Nat) (s : State) : (s.dropIn n).opb = s.opb := rfl
@[simp] theorem State.dropIn_res (n : Nat) (s : State) : (s.dropIn n).res = s.res := rfl
@[simp] theorem State.dropIn_olen (n : Nat) (s : State) : (s.dropIn n).olen = s.olen := rfl
@[simp] theorem State.dropIn_bidx (n : Nat) (s : State) : (s.dropIn n).bidx = s.bidx := rfl
@[simp] theorem State.dropIn_totb (n : Nat) (s : State) : (s.dropIn n).totb = s.totb := rfl
@[simp] theorem State.dropIn_intv (n : Nat) (s : State) : (s.dropIn n).intv = s.intv := rfl
@[simp] theorem State.dropIn_key (n : Nat) (s : State) : (s.dropIn n).key = s.key := rfl
@[simp] theorem State.dropIn_bkey (n : Nat) (s : State) : (s.dropIn n).bkey = s.bkey := rfl
@[simp] theorem State.dropIn_perm (n : Nat) (s : State) : (s.dropIn n).perm = s.perm := rfl
@[simp] theorem State.dropIn_iperm (n : Nat) (s : State) : (s.dropIn n).iperm = s.iperm := rfl
@[simp] theorem State.dropIn_inQ (n : Nat) (s : State) : (s.dropIn n).inQ = s.inQ.drop n := rfl
@[simp] theorem State.dropIn_outQ (n : Nat) (s : State) : (s.dropIn n).outQ = s.outQ := rfl
@[simp] theorem State.dropIn_evtQ (n : Nat) (s : State) : (s.dropIn n).evtQ = s.evtQ := rfl
@[simp] theorem State.dropIn_pkt (n : Nat) (s : State) : (s.dropIn n).pkt = s.pkt := rfl
@[simp] theorem State.dropIn_ltot (n : Nat) (s : State) : (s.dropIn n).ltot = s.ltot := rfl
@[simp] theorem State.dropIn_zbuf (n : Nat) (s : State) : (s.dropIn n).zbuf = s.zbuf := rfl
@[simp] theorem State.dropIn_started (n : Nat) (s : State) : (s.dropIn n).started = s.started := rfl
@[simp] theorem State.dropIn_pend (n : Nat) (s : State) : (s.dropIn n).pend = s.pend := rfl
@[simp] theorem State.dropIn_fin (n : Nat) (s : State) : (s.dropIn n).fin = s.fin := rfl
@[simp] theorem State.dropIn_cmdPort (n : Nat) (s : State) : (s.dropIn n).cmdPort = s.cmdPort := rfl
@[simp] theorem State.dropIn_sched (n : Nat) (s : State) : (s.dropIn n).sched = s.sched := rfl
@[simp] theorem State.dropIn_rdata (n : Nat) (s : State) : (s.dropIn n).rdata = s.rdata := rfl
@[simp] theorem State.dropIn_resets (n : Nat) (s : State) : (s.dropIn n).resets = s.resets := rfl
@[simp] theorem State.dropIn_freeReads (n : Nat) (s : State) : (s.dropIn n).freeReads = s.freeReads := rfl

@[simp] theorem State.loadTables_lcmd (P : Params) (t : Bytes × Bytes) (s : State) : (s.loadTables P t).lcmd = s.lcmd := rfl
@[simp] theorem State.loadTables_status (P : Params) (t : Bytes × Bytes) (s : State) : (s.loadTables P t).status = s.status.tablesValid := rfl
@[simp] theorem State.loadTables_klen (P : Params) (t : Bytes × Bytes) (s : State) : (s.loadTables P t).klen = s.klen := rfl
@[simp] theorem State.loadTables_mlen (P : Params) (t : Bytes × Bytes) (s : State) : (s.loadTables P t).mlen = s.mlen := rfl
@[simp] theorem State.loadTables_bklen (P : Params) (t : Bytes × Bytes) (s : State) : (s.loadTables P t).bklen = s.bklen := rfl
@[simp] theorem State.loadTables_opb (P : Params) (t : Bytes × Bytes) (s : State) : (s.loadTables P t).opb = s.opb := rfl
@[simp] theorem State.loadTables_res (P : Params) (t : Bytes × Bytes) (s : State) : (s.loadTables P t).res = s.res := rfl
@[simp] theorem State.loadTables_olen (P : Params) (t : Bytes × Bytes) (s : State) : (s.loadTables P t).olen = s.olen := rfl
@[simp] theorem State.loadTables_bidx (P : Params) (t : Bytes × Bytes) (s : State) : (s.loadTables P t).bidx = s.bidx := rfl
@[simp] theorem State.loadTables_totb (P : Params) (t : Bytes × Bytes) (s : State) : (s.loadTables P t).totb = s.totb := rfl
@[simp] theorem State.loadTables_intv (P : Params) (t : Bytes × Bytes) (s : State) : (s.loadTables P t).intv = s.intv := rfl
@[simp] theorem State.loadTables_key (P : Params) (t : Bytes × Bytes) (s : State) : (s.loadTables P t).key = s.key := rfl
@[simp] theorem State.loadTables_bkey (P : Params) (t : Bytes × Bytes) (s : State) : (s.loadTables P t).bkey = s.bkey := rfl
@[simp] theorem State.loadTables_perm (P : Params) (t : Bytes × Bytes) (s : State) : (s.loadTables P t).perm = s.perm.writeBytes (s.fresh P .perm) 0 t.1 := rfl
@[simp] theorem State.loadTables_iperm (P : Params) (t : Bytes × Bytes) (s : State) : (s.loadTables P t).iperm = s.iperm.writeBytes (s.fresh P .iperm) 0 t.2 := rfl
@[simp] theorem State.loadTables_inQ (P : Params) (t : Bytes × Bytes) (s : State) : (s.loadTables P t).inQ = s.inQ := rfl
@[simp] theorem State.loadTables_outQ (P : Params) (t : Bytes × Bytes) (s : State) : (s.loadTables P t).outQ = s.outQ := rfl
@[simp] theorem State.loadTables_evtQ (P : Params) (t : Bytes × Bytes) (s : State) : (s.loadTables P t).evtQ = s.evtQ := rfl
@[simp] theorem State.loadTables_pkt (P : Params) (t : Bytes × Bytes) (s : State) : (s.loadTables P t).pkt = s.pkt := rfl
@[simp] theorem State.loadTables_ltot (P : Params) (t : Bytes × Bytes) (s : State) : (s.loadTables P t).ltot = s.ltot := rfl
@[simp] theorem State.loadTables_zbuf (P : Params) (t : Bytes × Bytes) (s : State) : (s.loadTables P t).zbuf = s.zbuf := rfl
@[simp] theorem State.loadTables_started (P : Params) (t : Bytes × Bytes) (s : State) : (s.loadTables P t).started = s.started := rfl
@[simp] theorem State.loadTables_pend (P : Params) (t : Bytes × Bytes) (s : State) : (s.loadTables P t).pend = s.pend := rfl
@[simp] theorem State.loadTables_fin (P : Params) (t : Bytes × Bytes) (s : State) : (s.loadTables P t).fin = s.fin := rfl
@[simp] theorem State.loadTables_cmdPort (P : Params) (t : Bytes × Bytes) (s : State) : (s.loadTables P t).cmdPort = s.cmdPort := rfl
@[simp] theorem State.loadTables_sched (P : Params) (t : Bytes × Bytes) (s : State) : (s.loadTables P t).sched = s.sched := rfl
@[simp] theorem State.loadTables_rdata (P : Params) (t : Bytes × Bytes) (s : State) : (s.loadTables P t).rdata = s.rdata := rfl
@[simp] theorem State.loadTables_resets (P : Params) (t : Bytes × Bytes) (s : State) : (s.loadTables P t).resets = s.resets := rfl
@[simp] theorem State.loadTables_freeReads (P : Params) (t : Bytes × Bytes) (s : State) : (s.loadTables P t).freeReads = s.freeReads := rfl

@[simp] theorem State.loadBlock_lcmd (P : Params) (bk : Bytes) (s : State) : (s.loadBlock P bk).lcmd = s.lcmd := rfl
@[simp] theorem State.loadBlock_status (P : Params) (bk : Bytes) (s : State) : (s.loadBlock P bk).status = s.status.tablesValid := rfl
@[simp] theorem State.loadBlock_klen (P : Params) (bk : Bytes) (s : State) : (s.loadBlock P bk).klen = s.klen := rfl
@[simp] theorem State.loadBlock_mlen (P : Params) (bk : Bytes) (s : State) : (s.loadBlock P bk).mlen = s.mlen := rfl
@[simp] theorem State.loadBlock_bklen (P : Params) (bk : Bytes) (s : State) : (s.loadBlock P bk).bklen = blockSize := rfl
@[simp] theorem State.loadBlock_opb (P : Params) (bk : Bytes) (s : State) : (s.loadBlock P bk).opb = s.opb := rfl
@[simp] theorem State.loadBlock_res (P : Params) (bk : Bytes) (s : State) : (s.loadBlock P bk).res = s.res := rfl
@[simp] theorem State.loadBlock_olen (P : Params) (bk : Bytes) (s : State) : (s.loadBlock P bk).olen = s.olen := rfl
@[simp] theorem State.loadBlock_bidx (P : Params) (bk : Bytes) (s : State) : (s.loadBlock P bk).bidx = s.bidx := rfl
@[simp] theorem State.loadBlock_totb (P : Params) (bk : Bytes) (s : State) : (s.loadBlock P bk).totb = s.totb := rfl
@[simp] theorem State.loadBlock_intv (P : Params) (bk : Bytes) (s : State) : (s.loadBlock P bk).intv = s.intv := rfl
@[simp] theorem State.loadBlock_key (P : Params) (bk : Bytes) (s : State) : (s.loadBlock P bk).key = s.key := rfl
@[simp] theorem State.loadBlock_bkey (P : Params) (bk : Bytes) (s : State) : (s.loadBlock P bk).bkey = s.bkey.writeBytes (s.fresh P .bkey) 0 bk := rfl
@[simp] theorem State.loadBlock_perm (P : Params) (bk : Bytes) (s : State) : (s.loadBlock P bk).perm = s.perm.writeBytes (s.fresh P .perm) 0 (generate P bk).1 := rfl
@[simp] theorem State.loadBlock_iperm (P : Params) (bk : Bytes) (s : State) : (s.loadBlock P bk).iperm = s.iperm.writeBytes (s.fresh P .iperm) 0 (generate P bk).2 := rfl
@[simp] theorem State.loadBlock_inQ (P : Params) (bk : Bytes) (s : State) : (s.loadBlock P bk).inQ = s.inQ := rfl
@[simp] theorem State.loadBlock_outQ (P : Params) (bk : Bytes) (s : State) : (s.loadBlock P bk).outQ = s.outQ := rfl
@[simp] theorem State.loadBlock_evtQ (P : Params) (bk : Bytes) (s : State) : (s.loadBlock P bk).evtQ = s.evtQ := rfl
@[simp] theorem State.loadBlock_pkt (P : Params) (bk : Bytes) (s : State) : (s.loadBlock P bk).pkt = .tail (keyTail bk s.klen) := rfl
@[simp] theorem State.loadBlock_ltot (P : Params) (bk : Bytes) (s : State) : (s.loadBlock P bk).ltot = s.ltot := rfl
@[simp] theorem State.loadBlock_zbuf (P : Params) (bk : Bytes) (s : State) : (s.loadBlock P bk).zbuf = s.zbuf := rfl
@[simp] theorem State.loadBlock_started (P : Params) (bk : Bytes) (s : State) : (s.loadBlock P bk).started = s.started := rfl
@[simp] theorem State.loadBlock_pend (P : Params) (bk : Bytes) (s : State) : (s.loadBlock P bk).pend = s.pend := rfl
@[simp] theorem State.loadBlock_fin (P : Params) (bk : Bytes) (s : State) : (s.loadBlock P bk).fin = s.fin := rfl
@[simp] theorem State.loadBlock_cmdPort (P : Params) (bk : Bytes) (s : State) : (s.loadBlock P bk).cmdPort = s.cmdPort := rfl
@[simp] theorem State.loadBlock_sched (P : Params) (bk : Bytes) (s : State) : (s.loadBlock P bk).sched = s.sched := rfl
@[simp] theorem State.loadBlock_rdata (P : Params) (bk : Bytes) (s : State) : (s.loadBlock P bk).rdata = s.rdata := rfl
@[simp] theorem State.loadBlock_resets (P : Params) (bk : Bytes) (s : State) : (s.loadBlock P bk).resets = s.resets := rfl
@[simp] theorem State.loadBlock_freeReads (P : Params) (bk : Bytes) (s : State) : (s.loadBlock P bk).freeReads = s.freeReads := rfl

@[simp] theorem State.streamStart_lcmd (n : Nat) (s : State) : (s.streamStart n).lcmd = s.lcmd := rfl
@[simp] theorem State.streamStart_status (n : Nat) (s : State) : (s.streamStart n).status = s.status := rfl
@[simp] theorem State.streamStart_klen (n : Nat) (s : State) : (s.streamStart n).klen = s.klen := rfl
@[simp] theorem State.streamStart_mlen (n : Nat) (s : State) : (s.streamStart n).mlen = s.mlen := rfl
@[simp] theorem State.streamStart_bklen (n : Nat) (s : State) : (s.streamStart n).bklen = s.bklen := rfl
@[simp] theorem State.streamStart_opb (n : Nat) (s : State) : (s.streamStart n).opb = s.opb := rfl
@[simp] theorem State.streamStart_res (n : Nat) (s : State) : (s.streamStart n).res = s.res := rfl
@[simp] theorem State.streamStart_olen (n : Nat) (s : State) : (s.streamStart n).olen = s.olen := rfl
@[simp] theorem State.streamStart_bidx (n : Nat) (s : State) : (s.streamStart n).bidx = 0 := rfl
@[simp] theorem State.streamStart_totb (n : Nat) (s : State) : (s.streamStart n).totb = totalBlocks n := rfl
@[simp] theorem State.streamStart_intv (n : Nat) (s : State) : (s.streamStart n).intv = interval (totalBlocks n) := rfl
@[simp] theorem State.streamStart_key (n : Nat) (s : State) : (s.streamStart n).key = s.key := rfl
@[simp] theorem State.streamStart_bkey (n : Nat) (s : State) : (s.streamStart n).bkey = s.bkey := rfl
@[simp] theorem State.streamStart_perm (n : Nat) (s : State) : (s.streamStart n).perm = s.perm := rfl
@[simp] theorem State.streamStart_iperm (n : Nat) (s : State) : (s.streamStart n).iperm = s.iperm := rfl
@[simp] theorem State.streamStart_inQ (n : Nat) (s : State) : (s.streamStart n).inQ = s.inQ := rfl
@[simp] theorem State.streamStart_outQ (n : Nat) (s : State) : (s.streamStart n).outQ = s.outQ := rfl
@[simp] theorem State.streamStart_evtQ (n : Nat) (s : State) : (s.streamStart n).evtQ = s.evtQ := rfl
@[simp] theorem State.streamStart_pkt (n : Nat) (s : State) : (s.streamStart n).pkt = .key := rfl
@[simp] theorem State.streamStart_ltot (n : Nat) (s : State) : (s.streamStart n).ltot = n := rfl
@[simp] theorem State.streamStart_zbuf (n : Nat) (s : State) : (s.streamStart n).zbuf = s.zbuf := rfl
@[simp] theorem State.streamStart_started (n : Nat) (s : State) : (s.streamStart n).started = true := rfl
@[simp] theorem State.streamStart_pend (n : Nat) (s : State) : (s.streamStart n).pend = s.pend := rfl
@[simp] theorem State.streamStart_fin (n : Nat) (s : State) : (s.streamStart n).fin = s.fin := rfl
@[simp] theorem State.streamStart_cmdPort (n : Nat) (s : State) : (s.streamStart n).cmdPort = s.cmdPort := rfl
@[simp] theorem State.streamStart_sched (n : Nat) (s : State) : (s.streamStart n).sched = s.sched := rfl
@[simp] theorem State.streamStart_rdata (n : Nat) (s : State) : (s.streamStart n).rdata = s.rdata := rfl
@[simp] theorem State.streamStart_resets (n : Nat) (s : State) : (s.streamStart n).resets = s.resets := rfl
@[simp] theorem State.streamStart_freeReads (n : Nat) (s : State) : (s.streamStart n).freeReads = s.freeReads := rfl

@[simp] theorem State.presentWord_lcmd (w : Word) (s : State) : (s.presentWord w).lcmd = s.lcmd := rfl
@[simp] theorem State.presentWord_status (w : Word) (s : State) : (s.presentWord w).status = { s.status with busy := false } := rfl
@[simp] theorem State.presentWord_klen (w : Word) (s : State) : (s.presentWord w).klen = s.klen := rfl
@[simp] theorem State.presentWord_mlen (w : Word) (s : State) : (s.presentWord w).mlen = s.mlen := rfl
@[simp] theorem State.presentWord_bklen (w : Word) (s : State) : (s.presentWord w).bklen = s.bklen := rfl
@[simp] theorem State.presentWord_opb (w : Word) (s : State) : (s.presentWord w).opb = s.opb := rfl
@[simp] theorem State.presentWord_res (w : Word) (s : State) : (s.presentWord w).res = s.res := rfl
@[simp] theorem State.presentWord_olen (w : Word) (s : State) : (s.presentWord w).olen = s.olen := rfl
@[simp] theorem State.presentWord_bidx (w : Word) (s : State) : (s.presentWord w).bidx = s.bidx := rfl
@[simp] theorem State.presentWord_totb (w : Word) (s : State) : (s.presentWord w).totb = s.totb := rfl
@[simp] theorem State.presentWord_intv (w : Word) (s : State) : (s.presentWord w).intv = s.intv := rfl
@[simp] theorem State.presentWord_key (w : Word) (s : State) : (s.presentWord w).key = s.key := rfl
@[simp] theorem State.presentWord_bkey (w : Word) (s : State) : (s.presentWord w).bkey = s.bkey := rfl
@[simp] theorem State.presentWord_perm (w : Word) (s : State) : (s.presentWord w).perm = s.perm := rfl
@[simp] theorem State.presentWord_iperm (w : Word) (s : State) : (s.presentWord w).iperm = s.iperm := rfl
@[simp] theorem State.presentWord_inQ (w : Word) (s : State) : (s.presentWord w).inQ = s.inQ := rfl
@[simp] theorem State.presentWord_outQ (w : Word) (s : State) : (s.presentWord w).outQ = s.outQ := rfl
@[simp] theorem State.presentWord_evtQ (w : Word) (s : State) : (s.presentWord w).evtQ = s.evtQ := rfl
@[simp] theorem State.presentWord_pkt (w : Word) (s : State) : (s.presentWord w).pkt = s.pkt := rfl
@[simp] theorem State.presentWord_ltot (w : Word) (s : State) : (s.presentWord w).ltot = s.ltot := rfl
@[simp] theorem State.presentWord_zbuf (w : Word) (s : State) : (s.presentWord w).zbuf = s.zbuf := rfl
@[simp] theorem State.presentWord_started (w : Word) (s : State) : (s.presentWord w).started = false := rfl
@[simp] theorem State.presentWord_pend (w : Word) (s : State) : (s.presentWord w).pend = [] := rfl
@[simp] theorem State.presentWord_fin (w : Word) (s : State) : (s.presentWord w).fin = false := rfl
@[simp] theorem State.presentWord_cmdPort (w : Word) (s : State) : (s.presentWord w).cmdPort = some w := rfl
@[simp] theorem State.presentWord_sched (w : Word) (s : State) : (s.presentWord w).sched = s.sched := rfl
@[simp] theorem State.presentWord_rdata (w : Word) (s : State) : (s.presentWord w).rdata = s.rdata := rfl
@[simp] theorem State.presentWord_resets (w : Word) (s : State) : (s.presentWord w).resets = s.resets := rfl
@[simp] theorem State.presentWord_freeReads (w : Word) (s : State) : (s.presentWord w).freeReads = s.freeReads := rfl

/-! The parts of the state an operand is computed from -/

@[simp] theorem State.fresh_eq (P : Params) (s : State) (sp : Space) : s.fresh P sp = P.resetByte s.resets sp := rfl
@[simp] theorem State.buffer_key (s : State) : s.buffer .key = s.key := rfl
@[simp] theorem State.buffer_bkey (s : State) : s.buffer .bkey = s.bkey := rfl
@[simp] theorem State.buffer_perm (s : State) : s.buffer .perm = s.perm := rfl
@[simp] theorem State.buffer_iperm (s : State) : s.buffer .iperm = s.iperm := rfl

/-- `KEY[0:KLEN]` depends on KEY, KLEN and the reset contents only. -/
theorem State.keyBytes_congr {P : Params} {s t : State} (hk : t.key = s.key) (hl : t.klen = s.klen)
    (hr : t.resets = s.resets) : t.keyBytes P = s.keyBytes P := by
  simp [State.keyBytes, hk, hl, hr]

end Sys2Proof.Machine
end

