-- ==== Sys2Proof/Laws/Ops.lean ====
section
/-!
SUPPORT. What each shared operation can do, said once: capacities, acceptance, pushes and their holds, and the shape of a command.
-/

namespace Sys2Proof.Machine

/-! ### Capacities -/

theorem exceeds_eq_false {n : Nat} {cap : Option Nat} : exceeds n cap = false ↔ fits n cap := by
  cases n <;> cases cap <;> simp [exceeds, fits]

theorem hasRoom_iff {n : Nat} {cap : Option Nat} : hasRoom n cap = true ↔ fits (n + 1) cap := by
  rw [hasRoom, Bool.not_eq_true', exceeds_eq_false]

theorem fits_mono {m n : Nat} {cap : Option Nat} (h : fits n cap) (hmn : m ≤ n) : fits m cap :=
  fun k hk => hmn.trans (h k hk)

theorem fits_one {cap : Option Nat} (h : ∀ n ∈ cap, 1 ≤ n) : fits 1 cap := h

/-! ### Pushes -/

@[simp] theorem pushedBytes_append (ps qs : List Push) : pushedBytes (ps ++ qs) = pushedBytes ps ++ pushedBytes qs := by
  induction ps with
  | nil => rfl
  | cons p ps ih => cases p <;> simp [pushedBytes, ih]

@[simp] theorem pushedRecords_append (ps qs : List Push) :
    pushedRecords (ps ++ qs) = pushedRecords ps ++ pushedRecords qs := by
  induction ps with
  | nil => rfl
  | cons p ps ih => cases p <;> simp [pushedRecords, ih]

@[simp] theorem pushedBytes_pushBytes (bs : Bytes) : pushedBytes (pushBytes bs) = bs := by
  induction bs with
  | nil => rfl
  | cons b bs ih => simpa [pushBytes, pushedBytes] using ih

@[simp] theorem pushedRecords_pushBytes (bs : Bytes) : pushedRecords (pushBytes bs) = [] := by
  induction bs with
  | nil => rfl
  | cons b bs ih => simpa [pushBytes, pushedRecords] using ih

/-- Making pushes touches the output queues and the sequencer only. -/
theorem drainPushes_frame (P : Params) (ps : List Push) (s : State) :
    drainPushes P ps s =
      { s with outQ := (drainPushes P ps s).outQ, evtQ := (drainPushes P ps s).evtQ,
               pend := (drainPushes P ps s).pend, fin := (drainPushes P ps s).fin,
               started := (drainPushes P ps s).started, status := (drainPushes P ps s).status } := by
  induction ps generalizing s with
  | nil =>
    simp only [drainPushes]
    split <;> rfl
  | cons p ps ih =>
    cases p <;> simp only [drainPushes] <;> split <;> first | rfl | (rw [ih])

theorem State.drain_frame (P : Params) (s : State) :
    s.drain P =
      { s with outQ := (s.drain P).outQ, evtQ := (s.drain P).evtQ, pend := (s.drain P).pend, fin := (s.drain P).fin,
               started := (s.drain P).started, status := (s.drain P).status } :=
  drainPushes_frame P s.pend s

/-- With room for all of them, every push is made, and a step that ends its command completes it. -/
theorem drainPushes_of_fits (P : Params) (ps : List Push) (s : State)
    (ho : pushedBytes ps ≠ [] → fits (s.outQ.length + (pushedBytes ps).length) P.outDepth)
    (he : pushedRecords ps ≠ [] → fits (s.evtQ.length + (pushedRecords ps).length) P.evtDepth) :
    drainPushes P ps s =
      if s.fin then
        State.complete { s with outQ := s.outQ ++ pushedBytes ps, evtQ := s.evtQ ++ pushedRecords ps, pend := [] }
      else { s with outQ := s.outQ ++ pushedBytes ps, evtQ := s.evtQ ++ pushedRecords ps, pend := [] } := by
  induction ps generalizing s with
  | nil => simp [drainPushes, pushedBytes, pushedRecords]
  | cons p ps ih =>
    cases p with
    | byte b =>
      have ho := ho (by simp [pushedBytes])
      have hr : hasRoom s.outQ.length P.outDepth = true :=
        hasRoom_iff.2 (fits_mono ho (by simp [pushedBytes]))
      simp only [drainPushes, hr, if_true]
      rw [ih _ (fun _ => by simpa [pushedBytes, Nat.add_assoc, Nat.add_comm 1] using ho)
        (by simpa [pushedRecords] using he)]
      simp [pushedBytes, pushedRecords]
    | record r =>
      have he := he (by simp [pushedRecords])
      have hr : hasRoom s.evtQ.length P.evtDepth = true :=
        hasRoom_iff.2 (fits_mono he (by simp [pushedRecords]))
      simp only [drainPushes, hr, if_true]
      rw [ih _ (by simpa [pushedBytes] using ho)
        (fun _ => by simpa [pushedRecords, Nat.add_assoc, Nat.add_comm 1] using he)]
      simp [pushedBytes, pushedRecords]

/-- Nothing is lost or reordered while pushes wait: what is in a queue followed by what waits for it stays the same. -/
theorem drainPushes_conserves (P : Params) (ps : List Push) (s : State) :
    (drainPushes P ps s).outQ ++ pushedBytes (drainPushes P ps s).pend = s.outQ ++ pushedBytes ps ∧
      (drainPushes P ps s).evtQ ++ pushedRecords (drainPushes P ps s).pend = s.evtQ ++ pushedRecords ps := by
  induction ps generalizing s with
  | nil => simp only [drainPushes]; split <;> simp [pushedBytes, pushedRecords]
  | cons p ps ih =>
    cases p <;> simp only [drainPushes] <;> split
    · refine ⟨(ih _).1.trans (by simp [pushedBytes]), (ih _).2.trans (by simp [pushedRecords])⟩
    · simp
    · refine ⟨(ih _).1.trans (by simp [pushedBytes]), (ih _).2.trans (by simp [pushedRecords])⟩
    · simp

/-- The two ways pushes end: all made (and the command completed if the step ends it), or held with the flags as they were. -/
theorem drainPushes_cases (P : Params) (ps : List Push) (s : State) :
    ((drainPushes P ps s).pend = [] ∧ (drainPushes P ps s).fin = false ∧
        (drainPushes P ps s).status = (if s.fin then s.status.completed else s.status) ∧
        (drainPushes P ps s).started = (if s.fin then false else s.started)) ∨
      ((drainPushes P ps s).pend ≠ [] ∧ (drainPushes P ps s).fin = s.fin ∧
        (drainPushes P ps s).status = s.status ∧ (drainPushes P ps s).started = s.started) := by
  induction ps generalizing s with
  | nil =>
    left
    simp only [drainPushes]
    cases s.fin <;> simp
  | cons p ps ih =>
    cases p <;> simp only [drainPushes] <;> split
    · exact ih _
    · right; simp
    · exact ih _
    · right; simp

/-- The output queues keep their capacities while pushes are made. -/
theorem drainPushes_queues (P : Params) (ps : List Push) (s : State)
    (h : fits s.outQ.length P.outDepth ∧ fits s.evtQ.length P.evtDepth) :
    fits (drainPushes P ps s).outQ.length P.outDepth ∧ fits (drainPushes P ps s).evtQ.length P.evtDepth := by
  induction ps generalizing s with
  | nil => simp only [drainPushes]; split <;> simpa using h
  | cons p ps ih =>
    cases p <;> simp only [drainPushes] <;> split
    · rename_i hr; exact ih _ ⟨by simpa using hasRoom_iff.1 hr, h.2⟩
    · exact h
    · rename_i hr; exact ih _ ⟨h.1, by simpa using hasRoom_iff.1 hr⟩
    · exact h

/-- A suffix of the pushes waits. -/
theorem drainPushes_pend_sub (P : Params) (ps : List Push) (s : State) : (drainPushes P ps s).pend <:+ ps := by
  induction ps generalizing s with
  | nil => simp only [drainPushes]; split <;> simp
  | cons p ps ih =>
    cases p <;> simp only [drainPushes] <;> split
    · exact (ih _).trans (List.suffix_cons _ _)
    · exact List.suffix_rfl
    · exact (ih _).trans (List.suffix_cons _ _)
    · exact List.suffix_rfl

/-- What is first of the pushes that still wait has no room: pushes are made as far as there is room. -/
theorem drainPushes_waits (P : Params) (ps : List Push) (s : State) :
    (∀ b rest, (drainPushes P ps s).pend = .byte b :: rest →
        ¬ fits ((drainPushes P ps s).outQ.length + 1) P.outDepth) ∧
      ∀ r rest, (drainPushes P ps s).pend = .record r :: rest →
        ¬ fits ((drainPushes P ps s).evtQ.length + 1) P.evtDepth := by
  induction ps generalizing s with
  | nil => simp only [drainPushes]; split <;> simp
  | cons p ps ih =>
    cases p <;> simp only [drainPushes] <;> split
    · exact ih _
    · rename_i hr; simp_all [hasRoom_iff]
    · exact ih _
    · rename_i hr; simp_all [hasRoom_iff]

/-- Bytes that a finite OUT does not take all: those that fit go, the others wait. -/
theorem drainPushes_bytes_held {P : Params} {d : Nat} (hd : P.outDepth = some d) (bs : Bytes) (s : State) (hne : bs ≠ [])
    (h : d < s.outQ.length + bs.length) :
    drainPushes P (pushBytes bs) s =
      { s with outQ := s.outQ ++ bs.take (d - s.outQ.length), pend := pushBytes (bs.drop (d - s.outQ.length)) } := by
  induction bs generalizing s with
  | nil => exact absurd rfl hne
  | cons b bs ih =>
    simp only [pushBytes, List.map_cons, drainPushes]
    split
    · rename_i hr
      have hr : s.outQ.length + 1 ≤ d := by simpa [hd, fits] using hasRoom_iff.1 hr
      obtain ⟨k, hk⟩ : ∃ k, d - s.outQ.length = k + 1 := ⟨d - s.outQ.length - 1, by omega⟩
      have hne : bs ≠ [] := by rintro rfl; simp at h; omega
      have := ih { s with outQ := s.outQ ++ [b] } hne (by simp at h ⊢; omega)
      rw [pushBytes] at this
      rw [this]
      simp [hk, show d - (s.outQ.length + 1) = k by omega, pushBytes]
    · rename_i hr
      have hr : d < s.outQ.length + 1 := by simpa [hd, fits] using mt hasRoom_iff.2 hr
      simp [show d - s.outQ.length = 0 by omega]

/-! ### Acceptance -/

theorem State.accept_of_none {checks : List Check} (h : firstError checks = none) (w : Word) (s : State) :
    s.accept w checks = { s with lcmd := w, status := s.status.cleared.begun, olen := 0 } := by
  simp [State.accept, h, State.latch]

theorem State.accept_of_some {checks : List Check} {e : ErrCode} (h : firstError checks = some e) (w : Word) (s : State) :
    s.accept w checks = (s.latch w).raise e := by
  simp [State.accept, h]

/-- The checks are tried in order (60_exceptions.md R260). -/
theorem firstError_cons (b : Bool) (e : ErrCode) (rest : List Check) :
    firstError ((b, e) :: rest) = if b then some e else firstError rest := by
  cases b <;> rfl

/-- No check fails exactly when none of them holds. -/
theorem firstError_eq_none {checks : List Check} : firstError checks = none ↔ ∀ c ∈ checks, c.1 = false := by
  induction checks with
  | nil => simp [firstError]
  | cons c cs ih =>
    obtain ⟨b, e⟩ := c
    cases b <;> simp [firstError, ih]

/-! ### The shape of a command -/

/-- The engine's turn on a busy engine between two steps with its input there: the step's body, then its pushes. -/
theorem command_atStep {checks : List Check} {bw own : State → State} {s : State} (h : s.atStep) :
    command checks bw own s = own s := by
  obtain ⟨hp, hb, -, -⟩ := h
  simp [command, hp, hb]

theorem State.pushing_atStep {s : State} (h : s.atStep) : s.pushing = false := by
  obtain ⟨-, -, hp, hf⟩ := h
  simp [State.pushing, hp, hf]

/-- The streams of a step's pushes have space when none of them is full. -/
theorem State.hasSpace_iff {P : Params} {s : State} :
    s.hasSpace P = true ↔
      (pushedBytes s.pend ≠ [] → fits (s.outQ.length + 1) P.outDepth) ∧
        (pushedRecords s.pend ≠ [] → fits (s.evtQ.length + 1) P.evtDepth) := by
  unfold State.hasSpace
  induction s.pend with
  | nil => simp [pushedBytes, pushedRecords]
  | cons p ps ih =>
    cases p with
    | byte b =>
      simp only [List.all_cons, Bool.and_eq_true, ih, Push.hasSpace, hasRoom_iff, pushedBytes, pushedRecords]
      tauto
    | record r =>
      simp only [List.all_cons, Bool.and_eq_true, ih, Push.hasSpace, hasRoom_iff, pushedBytes, pushedRecords]
      tauto

/-- Between two steps, with its input there: the step's body and its pushes when their streams have space, else a hold. -/
theorem engineStep_atStep {P : Params} {need : Nat} {body : State → State} {s : State} (h : s.atStep)
    (hn : need ≤ s.inQ.length) :
    engineStep P need body s = if (body s).hasSpace P then (body s).drain P else s := by
  simp [engineStep, State.pushing_atStep h, hn]

theorem streamStep_atStep {P : Params} {need : Nat} {body : State → State} {s : State} (h : s.atStep)
    (ha : s.status.abortreq = false) (hn : need ≤ s.inQ.length) :
    streamStep P need body s = if (body s).hasSpace P then (body s).drain P else s := by
  simp [streamStep, ha, engineStep_atStep h hn]

/-- Every state a command can reach in one step. -/
theorem command_cases (checks : List Check) (bw own : State → State) (s : State) :
    (∃ w, s.cmdPort = some w ∧ s.status.busy = true ∧ command checks bw own s = bw { s with cmdPort := none }) ∨
    (∃ w, s.cmdPort = some w ∧ s.status.busy = false ∧
      command checks bw own s = State.accept w checks { s with cmdPort := none }) ∨
    (s.cmdPort = none ∧ s.status.busy = true ∧ command checks bw own s = own s) ∨
    (s.cmdPort = none ∧ s.status.busy = false ∧ command checks bw own s = s) := by
  cases hp : s.cmdPort with
  | none => cases hb : s.status.busy <;> simp [command, hp, hb]
  | some w => cases hb : s.status.busy <;> simp [command, hp, hb]

/-- The three things the engine's turn can do: the rest of its pushes, a hold for input or space, or the step's body and its
pushes. -/
theorem engineStep_cases (P : Params) (need : Nat) (body : State → State) (s : State) :
    (s.pushing = true ∧ engineStep P need body s = s.drain P) ∨
    (s.pushing = false ∧ (s.inQ.length < need ∨ (body s).hasSpace P = false) ∧ engineStep P need body s = s) ∨
    (s.pushing = false ∧ need ≤ s.inQ.length ∧ (body s).hasSpace P = true ∧
      engineStep P need body s = (body s).drain P) := by
  unfold engineStep
  cases hp : s.pushing
  · by_cases hn : s.inQ.length < need
    · simp [hn]
    · cases hs : (body s).hasSpace P <;> simp [hn, Nat.le_of_not_lt hn]
  · simp

/-- As `engineStep_cases`, with the abort step between steps. -/
theorem streamStep_cases (P : Params) (need : Nat) (body : State → State) (s : State) :
    (s.pushing = false ∧ s.status.abortreq = true ∧ streamStep P need body s = s.abortStep) ∨
    ((s.pushing = true ∨ s.status.abortreq = false) ∧ streamStep P need body s = engineStep P need body s) := by
  unfold streamStep
  cases hp : s.pushing <;> cases ha : s.status.abortreq <;> simp

end Sys2Proof.Machine
end

