-- ==== Sys2Proof/Laws/Exec.lean ====
section
/-!
SUPPORT. Every command's meaning as one shape, so that a proof over all commands needs one case for each way the shape can go:
the checks, what a CMD write while busy does, the step's body, and whether an abort is taken between steps.
-/

namespace Sys2Proof.Machine

/-- What a CMD write of this command's word does while the engine is busy. -/
def busyWriteOf : Instr → State → State
  | .abort => abortWhileBusy
  | .stretch _ => ignoredWrite
  | .genperm _ => ignoredWrite
  | .encb => ignoredWrite
  | .decb => ignoredWrite
  | .encblk => ignoredWrite
  | .decblk => ignoredWrite
  | .encode _ => ignoredWrite
  | .decode _ => ignoredWrite
  | .senc _ => ignoredWrite
  | .sdec _ => ignoredWrite

/-- The body of a command's next step. -/
def bodyOf (P : Params) : Instr → State → State
  | .stretch sel => stretchBody P sel
  | .genperm sel => genpermBody P sel
  | .encb => encbBody P
  | .decb => decbBody P
  | .encblk => encblkBody P
  | .decblk => decblkBody P
  | .encode c => encodeBody P c
  | .decode c => decodeBody P c
  | .senc c => sencBody P c
  | .sdec c => sdecBody P c
  | .abort => abortBody

/-- The engine's turn while a command runs. -/
def ownStep (P : Params) (i : Instr) (s : State) : State :=
  if isStream i then streamStep P (inNeed i s) (bodyOf P i) s else engineStep P (inNeed i s) (bodyOf P i) s

/-- The shape of every meaning. -/
theorem exec_eq (i : Instr) (s : State) :
    exec i s = .next (command (checksOf Config.params i s) (busyWriteOf i) (ownStep Config.params i) s) := by
  cases i <;>
    · simp only [exec, execStretch, execGenperm, execEncb, execDecb, execEncblk, execDecblk, execEncode, execDecode, execSenc,
        execSdec, execAbort, stretchCommand, genpermCommand, encbCommand, decbCommand, encblkCommand, decblkCommand,
        encodeCommand, decodeCommand, sencCommand, sdecCommand, abortCommand, checksOf, command, ownStep, isStream, bodyOf,
        busyWriteOf, Bool.false_eq_true, if_false, if_true]

/-- A word at CMD of an idle engine is accepted or turned away. -/
theorem exec_idle (i : Instr) {s : State} {w : Word} (hp : s.cmdPort = some w) (hb : s.status.busy = false) :
    exec i s = .next (State.accept w (checksOf Config.params i s) { s with cmdPort := none }) := by
  simp [exec_eq, command, hp, hb]

/-- A word at CMD of a busy engine. -/
theorem exec_busy (i : Instr) {s : State} {w : Word} (hp : s.cmdPort = some w) (hb : s.status.busy = true) :
    exec i s = .next (busyWriteOf i { s with cmdPort := none }) := by
  simp [exec_eq, command, hp, hb]

/-- The engine's turn on a busy engine. -/
theorem exec_turn (i : Instr) {s : State} (hp : s.cmdPort = none) (hb : s.status.busy = true) :
    exec i s = .next (ownStep Config.params i s) := by
  simp [exec_eq, command, hp, hb]

/-- The engine's turn on an idle engine. -/
theorem exec_rest (i : Instr) {s : State} (hp : s.cmdPort = none) (hb : s.status.busy = false) : exec i s = .next s := by
  simp [exec_eq, command, hp, hb]

/-- Between two steps, with the input and the space there and no abort that the command would take: the body, then its pushes. -/
theorem exec_body (i : Instr) {s : State} (h : s.atStep) (hn : inNeed i s ≤ s.inQ.length)
    (ha : isStream i = true → s.status.abortreq = false) (hr : (bodyOf Config.params i s).hasSpace Config.params = true) :
    exec i s = .next ((bodyOf Config.params i s).drain Config.params) := by
  rw [exec_turn i h.1 h.2.1, ownStep]
  split
  · rename_i hs; rw [streamStep_atStep h (ha hs) hn, if_pos hr]
  · rw [engineStep_atStep h hn, if_pos hr]

/-- What one step of a command can do: every transition there is, each with what must hold for it. -/
theorem exec_cases (R : State → State → Prop) (i : Instr) (s t : State) (h : exec i s = .next t)
    (busyWrite : ∀ w, s.cmdPort = some w → s.status.busy = true → R s (busyWriteOf i { s with cmdPort := none }))
    (accept : ∀ w, s.cmdPort = some w → s.status.busy = false →
      R s (State.accept w (checksOf Config.params i s) { s with cmdPort := none }))
    (stay : s.cmdPort = none → R s s)
    (abort : s.cmdPort = none → s.status.busy = true → s.pushing = false → isStream i = true → s.status.abortreq = true →
      R s s.abortStep)
    (pushes : s.cmdPort = none → s.status.busy = true → s.pushing = true → R s (s.drain Config.params))
    (body : s.cmdPort = none → s.status.busy = true → s.pushing = false → (isStream i = true → s.status.abortreq = false) →
      inNeed i s ≤ s.inQ.length → (bodyOf Config.params i s).hasSpace Config.params = true →
      R s ((bodyOf Config.params i s).drain Config.params)) : R s t := by
  rw [exec_eq] at h
  injection h with h
  subst h
  rcases command_cases (checksOf Config.params i s) (busyWriteOf i) (ownStep Config.params i) s with
    ⟨w, h1, h2, h3⟩ | ⟨w, h1, h2, h3⟩ | ⟨h1, h2, h3⟩ | ⟨h1, h2, h3⟩ <;> rw [h3]
  · exact busyWrite w h1 h2
  · exact accept w h1 h2
  · have eng : (isStream i = true → s.pushing = true ∨ s.status.abortreq = false) →
        R s (engineStep Config.params (inNeed i s) (bodyOf Config.params i) s) := by
      intro ha
      rcases engineStep_cases Config.params (inNeed i s) (bodyOf Config.params i) s with ⟨a, b⟩ | ⟨a, b, c⟩ | ⟨a, b, d, c⟩
      · rw [b]; exact pushes h1 h2 a
      · rw [c]; exact stay h1
      · rw [c]; exact body h1 h2 a (fun hs => (ha hs).resolve_left (by simp [a])) b d
    unfold ownStep
    split
    · rename_i hs
      rcases streamStep_cases Config.params (inNeed i s) (bodyOf Config.params i) s with ⟨a, b, c⟩ | ⟨a, c⟩
      · rw [c]; exact abort h1 h2 a hs b
      · rw [c]; exact eng (fun _ => a)
    · rename_i hs
      exact eng (fun h => absurd h hs)
  · exact stay h1

/-- What a CMD write to a busy engine does: nothing, or ABORT's request. -/
theorem busyWriteOf_cases (i : Instr) (s : State) : busyWriteOf i s = s ∨ busyWriteOf i s = abortWhileBusy s := by
  cases i <;> simp [busyWriteOf, ignoredWrite]

/-- The checks read the lengths and PVALID only. -/
theorem checksOf_congr (P : Params) (i : Instr) (s u : State) (h1 : u.klen = s.klen) (h2 : u.mlen = s.mlen)
    (h3 : u.bklen = s.bklen) (h4 : u.status.pvalid = s.status.pvalid) : checksOf P i u = checksOf P i s := by
  cases i <;> simp only [checksOf, stretchChecks, genpermChecks, byteChecks, blockChecks, keyedChecks, h1, h2, h3, h4]

/-- What no body touches. -/
theorem bodyOf_frame (P : Params) (i : Instr) (s : State) :
    (bodyOf P i s).resets = s.resets ∧ (bodyOf P i s).key = s.key ∧ (bodyOf P i s).klen = s.klen ∧
      (bodyOf P i s).mlen = s.mlen ∧ (bodyOf P i s).opb = s.opb ∧ (bodyOf P i s).lcmd = s.lcmd ∧
      (bodyOf P i s).cmdPort = s.cmdPort ∧ (bodyOf P i s).sched = s.sched ∧ (bodyOf P i s).outQ = s.outQ ∧
      (bodyOf P i s).evtQ = s.evtQ := by
  cases i <;>
    simp only [bodyOf, stretchBody, genpermBody, encbBody, decbBody, encblkBody, decblkBody, encodeBody, decodeBody, sencBody,
      sdecBody, abortBody, sencStart, sencBlock, sencFinal, sdecStart, sdecBlock, sdecFinal] <;>
    (repeat' split) <;> exact ⟨rfl, rfl, rfl, rfl, rfl, rfl, rfl, rfl, rfl, rfl⟩

/-- What a step's pushes do to the state its body leaves. -/
theorem State.drain_of_fits (P : Params) (s : State)
    (ho : pushedBytes s.pend ≠ [] → fits (s.outQ.length + (pushedBytes s.pend).length) P.outDepth)
    (he : pushedRecords s.pend ≠ [] → fits (s.evtQ.length + (pushedRecords s.pend).length) P.evtDepth) :
    s.drain P =
      if s.fin then
        State.complete { s with outQ := s.outQ ++ pushedBytes s.pend, evtQ := s.evtQ ++ pushedRecords s.pend, pend := [] }
      else { s with outQ := s.outQ ++ pushedBytes s.pend, evtQ := s.evtQ ++ pushedRecords s.pend, pend := [] } :=
  drainPushes_of_fits P s.pend s ho he

/-- A step without pushes that goes on. -/
theorem State.drain_of_nothing (P : Params) {s : State} (hp : s.pend = []) (hf : s.fin = false) : s.drain P = s := by
  obtain ⟨⟩ := s
  subst hp hf
  simp [State.drain, drainPushes]

end Sys2Proof.Machine
end

