-- ==== Sys2Proof/Laws/Functions.lean ====
section
/-!
SUPPORT. The small lemmas of the pure functions: lengths, the unfolding steps that the later proofs rewrite with, and what the
table and block operations leave where.
-/

namespace Sys2Proof.Machine

variable (P : Params)

/-! ### KeyStretcher -/

@[simp] theorem beBytes_length (v n : Nat) : (beBytes v n).length = n := by simp [beBytes]

@[simp] theorem nextPart_length (part : Bytes) : (nextPart P part).length = part.length := by simp [nextPart]

theorem partsFrom_succ (n : Nat) (part : Bytes) : partsFrom P (n + 1) part = nextPart P part ++ partsFrom P n (nextPart P part) :=
  rfl

@[simp] theorem partsFrom_length (n : Nat) (part : Bytes) : (partsFrom P n part).length = n * part.length := by
  induction n generalizing part with
  | zero => simp [partsFrom]
  | succ n ih => simp [partsFrom_succ, ih, Nat.succ_mul, Nat.add_comm]

theorem le_ceilDiv_mul (t : Nat) {k : Nat} (h : 1 ≤ k) : t ≤ ceilDiv t k * k := by
  unfold ceilDiv
  have h1 := Nat.div_add_mod (t + k - 1) k
  have h2 := Nat.mod_lt (t + k - 1) (show k > 0 by omega)
  rw [Nat.mul_comm]
  omega

/-! ### PermutationGenerator -/

@[simp] theorem identityTable_length : identityTable.length = 256 := by simp [identityTable, alphabet]

theorem entry_identityTable {n : Nat} (h : n < 256) : entry identityTable n = BitVec.ofNat 8 n := by
  simp [entry, identityTable, alphabet, h]

@[simp] theorem swapAt_length (t : Bytes) (i j : Nat) : (swapAt t i j).length = t.length := by simp [swapAt]

theorem swapAt_perm {t : Bytes} {i j : Nat} (hi : i < t.length) (hj : j < t.length) : (swapAt t i j).Perm t := by
  simp only [swapAt, entry, List.getD_eq_getElem?_getD, List.getElem?_eq_getElem hi, List.getElem?_eq_getElem hj,
    Option.getD_some]
  exact List.set_set_perm hi hj

theorem shuffleFrom_succ (i : Nat) (t : Bytes) (g : P.G) :
    shuffleFrom P (i + 1) t g = shuffleFrom P i (swapAt t (i + 1) (P.below g (i + 2)).1) (P.below g (i + 2)).2 := rfl

/-- The first table of `generate`, in a form that rewriting can start from. -/
theorem generate_fst (seedKey : Bytes) :
    (generate P seedKey).1 = (shuffleFrom P 255 identityTable (P.seed (P.hash512 seedKey))).1 := by
  have h : alphabet - 1 = 255 := rfl
  simp only [generate, shuffle, h]

theorem generate_snd (seedKey : Bytes) : (generate P seedKey).2 = inverseTable (generate P seedKey).1 := by
  simp only [generate]

@[simp] theorem inverseTable_length (t : Bytes) : (inverseTable t).length = 256 := by simp [inverseTable, alphabet]

/-! ### BlockTransform -/

@[simp] theorem encodeBlock_length (b k t : Bytes) : (encodeBlock b k t).length = min b.length k.length := by
  simp [encodeBlock]

@[simp] theorem decodeBlock_length (b k t : Bytes) : (decodeBlock b k t).length = min b.length k.length := by
  simp [decodeBlock]

/-! ### StreamPipeline -/

theorem totalBlocks_eq (n : Nat) : totalBlocks n = (n + 8191) / 8192 := by simp [totalBlocks, ceilDiv, blockSize]

theorem interval_eq (t : Nat) : interval t = max 1 (t / 20) := rfl

theorem interval_pos (t : Nat) : 1 ≤ interval t := Nat.le_max_left _ _

@[simp] theorem blockOf_length (s : Bytes) (i : Nat) : (blockOf s i).length = min 8192 (s.length - 8192 * i) := by
  simp [blockOf, blockSize]

theorem blockOf_getD (s : Bytes) (i : Nat) {o : Nat} (h : o < 8192) : (blockOf s i).getD o 0 = s.getD (8192 * i + o) 0 := by
  simp [blockOf, blockSize, List.getD_eq_getElem?_getD, h]

theorem chainKey_zero (key : Bytes) : chainKey P key 0 = key := rfl

theorem chainKey_succ (key : Bytes) (i : Nat) : chainKey P key (i + 1) = keyTail (blockKeyOf P key i) key.length := rfl

/-- Blocks of the lengths of a sequence's blocks, put together: the length, and where byte `j` comes from. -/
theorem flatMap_blocks_length (f : Nat → Bytes) (len : Nat) (hf : ∀ i, (f i).length = min 8192 (len - 8192 * i)) (n : Nat) :
    ((List.range n).flatMap f).length = min len (8192 * n) := by
  induction n with
  | zero => simp
  | succ n ih =>
    rw [List.range_succ, List.flatMap_append, List.length_append, ih]
    simp [hf]
    omega

theorem flatMap_blocks_getD (f : Nat → Bytes) (len : Nat) (hf : ∀ i, (f i).length = min 8192 (len - 8192 * i)) (n j : Nat)
    (hj : j < min len (8192 * n)) :
    ((List.range n).flatMap f).getD j 0 = (f (j / 8192)).getD (j % 8192) 0 := by
  induction n with
  | zero => simp at hj
  | succ n ih =>
    rw [List.range_succ, List.flatMap_append]
    have hl := flatMap_blocks_length f len hf n
    by_cases h : j < min len (8192 * n)
    · rw [List.getD_append _ _ _ _ (by omega), ih h]
    · rw [List.getD_append_right _ _ _ _ (by omega), hl]
      have h1 : j / 8192 = n := by omega
      have h2 : j - min len (8192 * n) = j % 8192 := by omega
      simp [h1, h2]

/-! ### Operands -/

@[simp] theorem State.keyBytes_length (s : State) : (s.keyBytes P).length = s.klen := by simp [State.keyBytes]

@[simp] theorem State.blockKey_length (s : State) : (s.blockKey P).length = s.bklen := by simp [State.blockKey]

@[simp] theorem State.permTable_length (s : State) : (s.permTable P).length = 256 := by simp [State.permTable, alphabet]

@[simp] theorem State.ipermTable_length (s : State) : (s.ipermTable P).length = 256 := by simp [State.ipermTable, alphabet]

theorem State.opData_toNat (s : State) : s.opData.toNat = s.opb.toNat % 256 := by simp [State.opData]

theorem State.opKey_toNat (s : State) : s.opKey.toNat = s.opb.toNat / 256 := by
  have := s.opb.isLt
  simp [State.opKey, Nat.shiftRight_eq_div_pow]
  omega

@[simp] theorem pushedBytes_records (rs : List Progress) : pushedBytes (rs.map .record) = [] := by
  induction rs with
  | nil => rfl
  | cons r rs ih => simpa [pushedBytes] using ih

@[simp] theorem pushedRecords_records (rs : List Progress) : pushedRecords (rs.map .record) = rs := by
  induction rs with
  | nil => rfl
  | cons r rs ih => simpa [pushedRecords] using ih

theorem State.dueRecords_eq (s : State) :
    s.dueRecords = (if s.bidx % s.intv = 0 then [Progress.mk s.bidx s.totb s.bidx s.totb] else []).map .record := by
  simp only [State.dueRecords, recordDue, periodicRecord, beq_iff_eq]
  split <;> rfl

end Sys2Proof.Machine
end

