-- ==== Sys2Proof/Tests/Toy.lean ====
section
/-!
SUPPORT. T0, the toy instantiation of spec/95_test_vectors.md section 2, with unbounded capacities and zero for every free value.
The tests evaluate the model's commands under it; no statement rests on it.
-/

namespace Sys2Proof.Toy

/-- `HASH512_T0`. -/
def hash (b : Bytes) : Vector Byte digestBytes :=
  let h := b.foldl (fun h x => (h * 33 + x.toNat) % 65536) 5381
  ⟨(BitVec.ofNat 8 (h / 256) :: BitVec.ofNat 8 h :: List.replicate 62 0).toArray, by simp [digestBytes]⟩

/-- `PRNG_T0.seed`: the first two digest bytes. -/
def seed (d : Vector Byte digestBytes) : Nat :=
  (d.toList.getD 0 0).toNat * 256 + (d.toList.getD 1 0).toNat

/-- `n` calls of `nextbyte`, the bytes read as one number after `acc`. -/
def drawBytes : Nat → Nat → Nat → Nat × Nat
  | 0, acc, g => (acc, g)
  | n + 1, acc, g => drawBytes n (acc * 256 + (g * 75 + 74) % 65537 % 256) ((g * 75 + 74) % 65537)

/-- `PRNG_T0.bits`. The value is below `2 ^ k` already; the last reduction only makes the law plain. -/
def bits (g k : Nat) : Nat × Nat :=
  let d := drawBytes ((k + 7) / 8) 0 g
  (d.1 / 2 ^ (8 * ((k + 7) / 8) - k) % 2 ^ k, d.2)

/-- `PRNG_T0.below`. -/
def below (g n : Nat) : Nat × Nat := ((bits g 16).1 % n, (bits g 16).2)

/-- `DECOMPRESS_T0`. -/
def decompress : Bytes → Option Bytes
  | [] => none
  | b :: rest => if b = 0xC5 then some rest else none

/-- T0. -/
def t0 : Params :=
  { G := Nat, hash512 := hash, seed := seed, bits := bits, below := below,
    bits_lt := fun _ _ => Nat.mod_lt _ (by positivity), below_lt := fun _ _ h => Nat.mod_lt _ h,
    compress := fun b => 0xC5 :: b, decompress := decompress, lossless := fun _ => by simp [decompress] }

end Sys2Proof.Toy
end

