-- ==== Sys2Proof/Tests/Slice0.lean ====
section
/-!
SUPPORT. Small tests with expected results from the spec (spec/95_test_vectors.md, under T0, unless another source is named), and
for every statement with hypotheses a witness that they can be met together.
-/

namespace Sys2Proof.Machine.Tests

/-! ### Well-formedness: one ill-formed setting for each check (30_encoding.md R93, R94) -/

theorem test_refused_unassigned : CommandFields.assigned ⟨0x0B, false, false, 0⟩ = false := by decide
theorem test_refused_opcode_zero : CommandFields.legal ⟨0x00, false, false, 0⟩ = false := by decide
theorem test_refused_opcode_gap : CommandFields.legal ⟨0x0E, false, false, 0⟩ = false := by decide
theorem test_refused_opcode_high : CommandFields.legal ⟨0x10, false, false, 0⟩ = false := by decide
theorem test_refused_reserved : CommandFields.reservedClear ⟨0x01, false, false, 1⟩ = false := by decide
theorem test_refused_compress : CommandFields.compressAccepted ⟨0x01, true, false, 0⟩ = false := by decide
theorem test_refused_select : CommandFields.selectAccepted ⟨0x07, false, true, 0⟩ = false := by decide

/-! ### Decoding: words written out from R91 and R93, RSV, then SEL, C, OPC (95_test_vectors.md 9.2) -/

theorem test_decode_stretch_out : decode (0#22 ++ 0#1 ++ 0#1 ++ 0b00000001#8) = .ok (.stretch false) := by rfl
theorem test_decode_stretch_bkey : decode (0#22 ++ 1#1 ++ 0#1 ++ 0b00000001#8) = .ok (.stretch true) := by rfl
theorem test_decode_genperm_in : decode (0#22 ++ 0#1 ++ 0#1 ++ 0b00000010#8) = .ok (.genperm false) := by rfl
theorem test_decode_genperm_bkey : decode (0#22 ++ 1#1 ++ 0#1 ++ 0b00000010#8) = .ok (.genperm true) := by rfl
theorem test_decode_encb : decode (0#22 ++ 0#1 ++ 0#1 ++ 0b00000011#8) = .ok .encb := by rfl
theorem test_decode_decb : decode (0#22 ++ 0#1 ++ 0#1 ++ 0b00000100#8) = .ok .decb := by rfl
theorem test_decode_encblk : decode (0#22 ++ 0#1 ++ 0#1 ++ 0b00000101#8) = .ok .encblk := by rfl
theorem test_decode_decblk : decode (0#22 ++ 0#1 ++ 0#1 ++ 0b00000110#8) = .ok .decblk := by rfl
theorem test_decode_encode : decode (0#22 ++ 0#1 ++ 0#1 ++ 0b00000111#8) = .ok (.encode false) := by rfl
theorem test_decode_encode_c : decode (0#22 ++ 0#1 ++ 1#1 ++ 0b00000111#8) = .ok (.encode true) := by rfl
theorem test_decode_decode : decode (0#22 ++ 0#1 ++ 0#1 ++ 0b00001000#8) = .ok (.decode false) := by rfl
theorem test_decode_decode_c : decode (0#22 ++ 0#1 ++ 1#1 ++ 0b00001000#8) = .ok (.decode true) := by rfl
theorem test_decode_senc : decode (0#22 ++ 0#1 ++ 0#1 ++ 0b00001001#8) = .ok (.senc false) := by rfl
theorem test_decode_senc_c : decode (0#22 ++ 0#1 ++ 1#1 ++ 0b00001001#8) = .ok (.senc true) := by rfl
theorem test_decode_sdec : decode (0#22 ++ 0#1 ++ 0#1 ++ 0b00001010#8) = .ok (.sdec false) := by rfl
theorem test_decode_sdec_c : decode (0#22 ++ 0#1 ++ 1#1 ++ 0b00001010#8) = .ok (.sdec true) := by rfl
theorem test_decode_abort : decode (0#22 ++ 0#1 ++ 0#1 ++ 0b00001111#8) = .ok .abort := by rfl

theorem test_illegal_words :
    decode 0x00000101 = .error .compressNotAccepted ∧ decode 0x00000301 = .error .compressNotAccepted ∧
      decode 0x00000207 = .error .selectNotAccepted ∧ decode 0x0000020F = .error .selectNotAccepted ∧
      decode 0x00000000 = .error .unassignedOpcode ∧ decode 0x0000000B = .error .unassignedOpcode ∧
      decode 0x00000401 = .error .reservedBits ∧ decode 0x80000009 = .error .reservedBits := by
  refine ⟨?_, ?_, ?_, ?_, ?_, ?_, ?_, ?_⟩ <;> rfl

/-- No word selects two rows of the command map. -/
theorem test_rows_disjoint : rows.Pairwise (fun a b => (a.pattern ^^^ b.pattern) &&& (a.mask &&& b.mask) ≠ 0) := by decide

theorem test_decodeTableWord : decodeTableWord 32 0x201 = some (.stretch true) ∧ decodeTableWord 8 0x09 = some (.senc false) ∧
    decodeTableWord 32 0x103 = none := ⟨by rfl, by rfl, by rfl⟩

/-! ### Functions -/

theorem test_stretch_V6 : stretch Toy.t0 [0x41, 0x42] 5 = [0x21, 0xC4, 0xD8, 0x65, 0x39] := by decide +kernel

theorem test_stretch_V13 : stretch Toy.t0 [0x41, 0x42, 0x43] 2 = [0xA7, 0xED] := by decide +kernel

/-- `be_bytes` pads in front (40_keystretcher.md, after V14). -/
theorem test_beBytes : beBytes 0xA1 3 = [0x00, 0x00, 0xA1] := by decide +kernel

theorem test_interval : interval 39 = 1 ∧ interval 41 = 2 ∧ interval 60 = 3 ∧ interval 1234 = 61 := by decide

theorem test_records : streamRecords 2 = [⟨0, 2, 0, 2⟩, ⟨1, 2, 1, 2⟩, ⟨1, 1, 2, 2⟩] ∧ (streamRecords 41).length = 22 ∧
    streamRecords 0 = [⟨1, 1, 0, 0⟩] := by decide

theorem test_totalBlocks : totalBlocks 0 = 0 ∧ totalBlocks 8192 = 1 ∧ totalBlocks 8193 = 2 ∧ totalBlocks 24577 = 4 := by decide

/-! ### One step of each command under T0 -/

/-- A busy engine with nothing done yet. -/
def busy : State := { State.reset with status := { Status.reset with busy := true } }

/-- The key "test". -/
def testKey : Memory := [(0, 0x74), (1, 0x65), (2, 0x73), (3, 0x74)]

/-- The key "tast". -/
def tastKey : Memory := [(0, 0x74), (1, 0x61), (2, 0x73), (3, 0x74)]

/-- "hello world". -/
def hello : Bytes := [0x68, 0x65, 0x6C, 0x6C, 0x6F, 0x20, 0x77, 0x6F, 0x72, 0x6C, 0x64]

theorem test_stretch_V15 :
    let t := stretchCommand Toy.t0 false { busy with key := [(0, 0x41), (1, 0x42)], klen := 2, mlen := 5 }
    t.outQ = [0x21, 0xC4, 0xD8, 0x65, 0x39] ∧ t.olen = 5 ∧ t.bklen = 0 ∧ t.status.word = 0x002 := by decide +kernel

theorem test_stretch_V16 :
    let t := stretchCommand Toy.t0 true { busy with key := [(0, 0x41), (1, 0x42)], klen := 2, mlen := 4 }
    t.bkey = [(0, 0x21), (1, 0xC4), (2, 0xD8), (3, 0x65)] ∧ t.bklen = 4 ∧ t.olen = 0 ∧ t.outQ = [] ∧
      t.status.word = 0x002 := by decide +kernel

theorem test_genperm_V25 :
    let t := genpermCommand Toy.t0 false { busy with inQ := [0x41, 0x42, 0x43], mlen := 2 }
    (t.byteAt Toy.t0 .perm 254, t.inQ, t.status.word) = (0x8F, [0x43], 0x006) := by decide +kernel

/-- The seed of GENPERM from BKEY is BKEY[0:BKLEN] (V26): IN is not touched, and MLEN does not matter. -/
theorem test_genperm_V26 :
    let t := genpermCommand Toy.t0 true { busy with bkey := [(0, 0x41), (1, 0x42)], bklen := 2, mlen := 1, inQ := [0x43] }
    (t.inQ, t.status.word) = ([0x43], 0x006) := by decide +kernel

/-- V30b, the wrap: the entries are those of V20. -/
theorem test_encb_V30b :
    (encbCommand Toy.t0 { busy with perm := [(0, 0x17), (1, 0x60)], opb := 0x01FF }).res = 0x17 := by decide +kernel

theorem test_encb_V30a :
    (encbCommand Toy.t0 { busy with perm := [(0, 0x17), (1, 0x60)], opb := 0x0100 }).res = 0x60 := by decide +kernel

theorem test_decb_V30h : (decbCommand Toy.t0 { busy with iperm := [(0x8F, 0xFE)], opb := 0x0117 }).res = 0xFF := by
  decide +kernel

theorem test_decb_V30k : (decbCommand Toy.t0 { busy with iperm := [(0x8F, 0xFE)], opb := 0xFF8F }).res = 0xFF := by
  decide +kernel

/-- V31, with the entries of V23 that it reads. -/
theorem test_encblk_V31 :
    let t := encblkCommand Toy.t0 { busy with
      perm := [(0x21, 0x38), (0x65, 0x13), (0xC4, 0x33), (0xD8, 0x32)], bkey := [(0, 0x21), (1, 0xC4), (2, 0xD8), (3, 0x65)],
      bklen := 4, mlen := 4, inQ := [0, 0, 0, 0] }
    t.outQ = [0x38, 0x33, 0x32, 0x13] ∧ t.olen = 4 ∧ t.inQ = [] := by decide +kernel

/-- V34 (the inverse of V33): MLEN below BKLEN. -/
theorem test_decblk_V34 :
    let t := decblkCommand Toy.t0 { busy with
      iperm := [(0x9B, 0x22), (0xA7, 0xC6), (0xA9, 0xDB)], bkey := [(0, 0x21), (1, 0xC4), (2, 0xD8), (3, 0x65)],
      bklen := 4, mlen := 3, inQ := [0x9B, 0xA7, 0xA9] }
    t.outQ = [0x01, 0x02, 0x03] ∧ t.olen = 3 := by decide +kernel

theorem test_encode_V44 :
    let t := encodeCommand Toy.t0 true { busy with key := testKey, klen := 4, mlen := 11, inQ := hello }
    (t.outQ, t.olen, t.status.word) =
      ([0x9D, 0x4B, 0x6B, 0x24, 0xDF, 0xB7, 0x47, 0x63, 0xA0, 0x1F, 0xC5, 0x64], 12, 0x006) := by decide +kernel

theorem test_decode_V42 :
    let t := decodeCommand Toy.t0 false { busy with
      key := tastKey, klen := 4, mlen := 11,
      inQ := [0x77, 0x8C, 0xD6, 0x06, 0x90, 0xA7, 0x7C, 0x84, 0x65, 0x5A, 0xFE] }
    (t.outQ, t.olen, t.status.word) =
      ([0x70, 0x37, 0xD9, 0xE8, 0xD7, 0x56, 0xD1, 0xB5, 0xF5, 0x22, 0xCC], 11, 0x006) := by decide +kernel

/-- V52: the empty input with C = 1 does not decompress. -/
theorem test_decode_V52 :
    let t := decodeCommand Toy.t0 true { busy with key := testKey, klen := 4, inQ := [0x43] }
    (t.outQ, t.inQ, t.olen, t.status.word) = ([], [0x43], 0, 0x026) := by decide +kernel

/-- The start step for 327680 bytes: 40 blocks, a record for every second (95_test_vectors.md 8.1). -/
theorem test_senc_start :
    let t := sencCommand Toy.t0 false { busy with key := testKey, klen := 4, mlen := 327680 }
    t.totb = 40 ∧ t.intv = 2 ∧ t.bidx = 0 ∧ t.chainValue Toy.t0 = [0x74, 0x65, 0x73, 0x74] ∧ t.status.word = 0x001 := by decide +kernel

/-- V60: the final step of the empty stream. -/
theorem test_senc_V60 :
    let t := sencCommand Toy.t0 false { busy with started := true, intv := 1 }
    t.evtQ = [⟨1, 1, 0, 0⟩] ∧ t.outQ = [] ∧ t.status.word = 0x002 := by decide +kernel

/-- V71: the last step when the decoded bytes do not decompress. -/
theorem test_sdec_V71 :
    let t := sdecCommand Toy.t0 true { busy with started := true, totb := 1, bidx := 1, intv := 1, zbuf := [0x46, 0x89] }
    t.outQ = [] ∧ t.evtQ = [] ∧ t.olen = 0 ∧ t.bidx = 1 ∧ t.status.word = 0x022 := by decide +kernel

/-- V70: the last step when they do. -/
theorem test_sdec_V70 :
    let t := sdecCommand Toy.t0 true { busy with started := true, totb := 1, bidx := 1, intv := 1, zbuf := 0xC5 :: hello }
    t.outQ = hello ∧ t.evtQ = [⟨1, 1, 1, 1⟩] ∧ t.olen = 11 ∧ t.status.word = 0x002 := by decide +kernel

/-- V81: the abort step between two blocks. -/
theorem test_senc_V81 :
    let t := sencCommand Toy.t0 false { busy with
      started := true, totb := 3, bidx := 1, intv := 1, olen := 8192,
      status := { busy.status with abortreq := true, pvalid := true } }
    t.status.word = 0x106 ∧ t.bidx = 1 ∧ t.olen = 8192 ∧ t.evtQ = [] := by decide +kernel

theorem test_abort_V80 : (abortCommand Toy.t0 busy).status.word = 0x002 := by decide +kernel

/-- V83: ABORT while an ENCODE holds for input asks only. -/
theorem test_abort_V83 : (abortCommand Toy.t0 { busy with cmdPort := some 0x0F, lcmd := 0x07 }) =
    { busy with lcmd := 0x07, status := { busy.status with abortreq := true } } := by decide +kernel

/-- R39 at IN_DEPTH = 1: a SENC block step waiting for its byte takes it past a full IN, a pending abort takes none. -/
theorem test_push_while_abort_pending :
    let P := { Toy.t0 with inDepth := some 1, inDepth_pos := by simp }
    let s := { busy with lcmd := 0x09, started := true, totb := 1, ltot := 2, inQ := [0x5A] }
    (hostMove P (.push 0x5B) s).isSome = true ∧
      hostMove P (.push 0x5B) { s with status := { s.status with abortreq := true } } = none := by decide +kernel

/-! ### Acceptance errors (95_test_vectors.md 9.1) -/

/-- Tables valid, BKLEN = 4, KLEN = 2, the start of E10 to E18, with a word at CMD. -/
def ready (w : Word) : State :=
  { State.reset with bklen := 4, klen := 2, cmdPort := some w, status := { Status.reset with pvalid := true } }

theorem test_E10 : (encblkCommand Toy.t0 { ready 5 with mlen := 5, olen := 3 }).status.word = 0x046 ∧
    (encblkCommand Toy.t0 { ready 5 with mlen := 5, olen := 3 }).olen = 3 := by decide +kernel
theorem test_E11 : (encblkCommand Toy.t0 { ready 5 with mlen := 8193 }).status.word = 0x056 := by decide +kernel
theorem test_E12 : (genpermCommand Toy.t0 true { ready 0x202 with bklen := 8193 }).status.word = 0x056 := by decide +kernel
theorem test_E13 : (stretchCommand Toy.t0 true { ready 0x201 with mlen := 8193 }).status.word = 0x056 ∧
    (stretchCommand Toy.t0 false { ready 0x001 with mlen := 8193 }).status.word = 0x005 := by decide +kernel
theorem test_E14 :
    (encodeCommand { Toy.t0 with keyMax := some 1, keyMax_pos := by simp } false (ready 7)).status.word = 0x056 := by
  decide +kernel
theorem test_E8 : (encblkCommand Toy.t0 { ready 5 with mlen := 1, bklen := 1, status := Status.reset }).status.word = 0x062 := by
  decide +kernel

/-- The STATUS that a step leaves. -/
def statusAfter (o : Host.Outcome State Fault Refusal) : Option Word :=
  match o with
  | .next t => some t.status.word
  | .fault _ => none
  | .refused _ => none

theorem test_E1 : statusAfter (step (State.reset.withFetchWord 32 0x007)) = some 0x012 := by decide +kernel
theorem test_E5 : statusAfter (step (State.reset.withFetchWord 32 0x003)) = some 0x062 := by decide +kernel
theorem test_E9 : statusAfter (step (State.reset.withFetchWord 32 0x000)) = some 0x032 := by decide +kernel
theorem test_E16 : statusAfter (step (ready 0x103)) = some 0x036 := by decide +kernel

end Sys2Proof.Machine.Tests
end

