-- ==== Sys2Proof/Tests/Witnesses.lean ====
section
/-!
SUPPORT. For every statement with hypotheses, a concrete state and operands that meet all of them together; where a statement has
several clauses, one for each, at a boundary value where the clause has a range.
-/

namespace Sys2Proof.Machine.Witness

/-! ### States -/

/-- A busy engine between steps, running the command of word `w`, with one key byte and one byte of IN. -/
def running (w : Word) : State :=
  { State.reset with status := { Status.reset with busy := true }, lcmd := w, klen := 1, mlen := 1, bklen := 1, inQ := [0x5A] }

/-- A busy SENC or SDEC between the start step and the only block step of a one-byte stream. -/
def inBlock (w : Word) : State :=
  { running w with started := true, totb := 1, ltot := 1, intv := 1, pkt := .tail [0x6B], zbuf := [0x5A] }

/-- A busy SENC or SDEC before its final step. -/
def atEnd (w : Word) : State := { inBlock w with bidx := 1 }

/-- An idle engine with the word `w` at CMD. -/
def offered (w : Word) : State := { State.reset with cmdPort := some w }

/-- A busy engine with the word `w` at CMD. -/
def interrupted (w : Word) : State := { running 0x09 with cmdPort := some w }

/-- An idle engine and one move of the host. -/
def idleMove (m : HostMove) : State := { State.reset with sched := [.host m] }

/-- A busy engine and one move of the host. -/
def busyMove (m : HostMove) : State := { running 0x09 with sched := [.host m] }

theorem running_atStep (w : Word) : (running w).atStep := ⟨rfl, rfl, rfl, rfl⟩
theorem inBlock_atStep (w : Word) : (inBlock w).atStep := ⟨rfl, rfl, rfl, rfl⟩
theorem atEnd_atStep (w : Word) : (atEnd w).atStep := ⟨rfl, rfl, rfl, rfl⟩

/-- One element always fits (00_scope.md R10: capacities are at least 1). -/
theorem room_out : fits 1 Config.params.outDepth := fits_one Config.params.outDepth_pos
theorem room_evt : fits 1 Config.params.evtDepth := fits_one Config.params.evtDepth_pos

/-! ### Encoding -/

theorem witness_DecodeAndEncodeAgree : decode 0x00000201 = .ok (.stretch true) := by rfl

theorem witness_IllegalWordsRaiseIllegalCmd :
    (∃ e, decode 0x00000103 = .error e) ∧
      ((offered 0x103).cmdPort = some 0x103 ∧ (offered 0x103).status.busy = false) ∧
      ((interrupted 0x103).cmdPort = some 0x103 ∧ (interrupted 0x103).status.busy = true) ∧
      (let w : Word := 0x103
       (idleMove (.wr 0 w.toNat)).cmdPort = none ∧ (idleMove (.wr 0 w.toNat)).status.busy = false ∧
        (busyMove (.wr 0 w.toNat)).cmdPort = none ∧ (busyMove (.wr 0 w.toNat)).status.busy = true) :=
  ⟨⟨_, rfl⟩, ⟨rfl, rfl⟩, ⟨rfl, rfl⟩, rfl, rfl, rfl, rfl⟩

/-! ### Sequencing -/

theorem witness_StepRunsTheDecodedCommand :
    ((offered 0x03).cmdPort = some 0x03 ∧ decode 0x03 = .ok .encb) ∧
      ((idleMove (.wr 0 0x107)).cmdPort = none ∧ (idleMove (.wr 0 0x107)).sched = [.host (.wr 0 0x107)] ∧
        decode (BitVec.ofNat 32 0x107) = .ok (.encode true)) ∧
      ((running 0x09).cmdPort = none ∧ (running 0x09).status.busy = true ∧ decode (running 0x09).lcmd = .ok (.senc false) ∧
        (running 0x09).sched = []) ∧
      (let s := { running 0x09 with sched := [.engine] };
        s.cmdPort = none ∧ s.status.busy = true ∧ decode s.lcmd = .ok (.senc false) ∧ s.sched = [.engine]) ∧
      (State.reset.cmdPort = none ∧ State.reset.status.busy = false ∧ State.reset.sched = []) ∧
      { State.reset with sched := [.engine] }.sched = [.engine] :=
  ⟨⟨rfl, rfl⟩, ⟨rfl, rfl, rfl⟩, ⟨rfl, rfl, rfl, rfl⟩, ⟨rfl, rfl, rfl, rfl⟩, ⟨rfl, rfl, rfl⟩, rfl⟩

/-- LEN_RANGE just above the block size, ZERO_KEY, NO_TABLE, KEY_SHORT just below the message, and an accepted word at the block
size. -/
theorem witness_AcceptanceFollowsTheFixedOrder :
    (let s := { offered 0x05 with mlen := 8193 };
      s.cmdPort = some 0x05 ∧ s.status.busy = false ∧ lenRangeCause Config.params .encblk s) ∧
    (let s := { offered 0x05 with mlen := 8192 };
      ¬ lenRangeCause Config.params .encblk s ∧ zeroKeyCause .encblk s) ∧
    (let s := { offered 0x05 with mlen := 8192, bklen := 8192 };
      ¬ lenRangeCause Config.params .encblk s ∧ ¬ zeroKeyCause .encblk s ∧ noTableCause .encblk s) ∧
    (let s := { offered 0x05 with mlen := 8192, bklen := 8191, status := { Status.reset with pvalid := true } };
      ¬ lenRangeCause Config.params .encblk s ∧ ¬ zeroKeyCause .encblk s ∧ ¬ noTableCause .encblk s ∧ keyShortCause .encblk s) ∧
    (let s := { offered 0x05 with mlen := 8192, bklen := 8192, status := { Status.reset with pvalid := true } };
      ¬ lenRangeCause Config.params .encblk s ∧ ¬ zeroKeyCause .encblk s ∧ ¬ noTableCause .encblk s ∧
        ¬ keyShortCause .encblk s) := by
  simp [lenRangeCause, zeroKeyCause, noTableCause, keyShortCause, offered, State.reset, Status.reset]

theorem witness_BusyCmdWriteOnlyHearsAbort :
    ((interrupted 0x0F).cmdPort = some 0x0F ∧ (interrupted 0x0F).status.busy = true) ∧
      (interrupted 0x10F).cmdPort = some 0x10F ∧ (interrupted 0x10F).status.busy = true := ⟨⟨rfl, rfl⟩, rfl, rfl⟩

/-! ### Functions -/

/-- The identity is its own inverse. -/
theorem witness_ByteRoundTrip : TablesInverse identityTable identityTable := by
  have h : ∀ v : Byte, entry identityTable v.toNat = v := fun v => by rw [entry_identityTable v.isLt]; simp
  refine ⟨identityTable_length, identityTable_length, ?_, fun v => by rw [h, h], fun v => by rw [h, h]⟩
  unfold identityTable alphabet
  refine List.Nodup.map_on (fun x hx y hy hxy => ?_) List.nodup_range
  have := congrArg BitVec.toNat hxy
  simp at this hx hy
  omega

theorem witness_BlockTransformsArePositional : ([0x61] : Bytes).length ≤ ([0x62, 0x63] : Bytes).length := by decide

theorem witness_BlockGuarantee :
    ([0x61, 0x61] : Bytes).length ≤ ([0x62, 0x62] : Bytes).length ∧ TablesInverse identityTable identityTable ∧
      0 < ([0x61, 0x61] : Bytes).length ∧ 1 < ([0x61, 0x61] : Bytes).length ∧
      ([0x61, 0x61] : Bytes).getD 0 0 = ([0x61, 0x61] : Bytes).getD 1 0 ∧
      ([0x62, 0x62] : Bytes).getD 0 0 = ([0x62, 0x62] : Bytes).getD 1 0 :=
  ⟨by decide, witness_ByteRoundTrip, by decide, by decide, rfl, rfl⟩

theorem witness_BeBytesIsMostSignificantFirst : 0xFFFF < 2 ^ (8 * 2) := by decide

theorem witness_StretchRoundsLengthAndPrefix : 1 ≤ ([0x6B] : Bytes).length ∧ 3 ≤ 4 := by decide

theorem witness_MessageRoundTrip : 1 ≤ ([0x6B] : Bytes).length := by decide

/-- 8193 bytes make two blocks: the first is followed by another, the second is not; and the empty sequence. -/
theorem witness_BlockSplitCoversTheSequence :
    let s : Bytes := List.replicate 8193 0
    0 + 1 < totalBlocks s.length ∧ 1 < totalBlocks s.length ∧ ¬ 1 + 1 < totalBlocks s.length := by
  simp only [List.length_replicate, totalBlocks_eq]
  decide

theorem witness_KeyChainLengths : 1 ≤ (List.replicate 8193 (0 : Byte)).length ∧ 1 ≤ ([0x6B] : Bytes).length := by
  simp only [List.length_replicate]
  decide

theorem witness_StreamBytesByPosition :
    1 ≤ ([0x6B] : Bytes).length ∧ 8192 < (List.replicate 8193 (0 : Byte)).length := by
  simp only [List.length_replicate]
  decide

theorem witness_StreamRoundTrip : 1 ≤ ([0x6B] : Bytes).length := by decide

theorem witness_StreamPrefixLocality : 1 ≤ ([0x6B] : Bytes).length := by decide

theorem witness_IntervalValues : (39 ≤ 39) ∧ (40 ≤ 40 ∧ 40 ≤ 59) ∧ (40 ≤ 59 ∧ 59 ≤ 59) ∧ 20 ≤ 20 := by decide

theorem witness_RecordCount : 39 ≤ 39 ∧ 20 ≤ 20 := by decide

/-! ### Commands -/

/-- T0 with room for one byte in IN and OUT and for one record. -/
def tight : Params :=
  { Toy.t0 with inDepth := some 1, inDepth_pos := by simp, outDepth := some 1, outDepth_pos := by simp,
                evtDepth := some 1, evtDepth_pos := by simp }

/-- As `running`, with two bytes to process: `tight` has room for the first. -/
def long (w : Word) : State := { running w with mlen := 2, bklen := 2, inQ := [0x5A, 0x5B] }

theorem long_atStep (w : Word) : (long w).atStep := ⟨rfl, rfl, rfl, rfl⟩

theorem long_takes_one (w : Word) : ¬ outTakes tight (long w) 2 ∧ fits ((long w).outQ.length + 1) tight.outDepth := by
  simp [outTakes, fits, tight, long, running, State.reset]

theorem witness_StretchToOutCompletes :
    ((running 0x01).atStep ∧ 1 ≤ (running 0x01).klen ∧ outTakes Config.params (running 0x01) (running 0x01).mlen) ∧
      (long 0x01).atStep ∧ 1 ≤ (long 0x01).klen ∧ ¬ outTakes tight (long 0x01) (long 0x01).mlen ∧
        fits ((long 0x01).outQ.length + 1) tight.outDepth :=
  ⟨⟨running_atStep _, le_rfl, .inr room_out⟩, long_atStep _, le_rfl, long_takes_one _⟩

theorem witness_StretchToBkeyCompletes : (running 0x201).atStep ∧ 1 ≤ (running 0x201).klen := ⟨running_atStep _, le_rfl⟩

theorem witness_GenpermCompletes :
    ((running 0x02).atStep ∧ (running 0x02).mlen ≤ (running 0x02).inQ.length) ∧ (running 0x202).atStep :=
  ⟨⟨running_atStep _, le_rfl⟩, running_atStep _⟩

theorem witness_ByteCommandsComplete : (running 0x03).atStep := running_atStep _

theorem witness_BlockCommandsComplete :
    ((running 0x05).atStep ∧ (running 0x05).mlen ≤ (running 0x05).inQ.length ∧ (running 0x05).mlen ≤ (running 0x05).bklen ∧
        outTakes Config.params (running 0x05) (running 0x05).mlen) ∧
      (long 0x05).atStep ∧ (long 0x05).mlen ≤ (long 0x05).inQ.length ∧ (long 0x05).mlen ≤ (long 0x05).bklen ∧
        ¬ outTakes tight (long 0x05) (long 0x05).mlen ∧ fits ((long 0x05).outQ.length + 1) tight.outDepth :=
  ⟨⟨running_atStep _, le_rfl, le_rfl, .inr room_out⟩, long_atStep _, le_rfl, le_rfl, long_takes_one _⟩

theorem witness_EncodeCompletes :
    ((running 0x07).atStep ∧ 1 ≤ (running 0x07).klen ∧ (running 0x07).mlen ≤ (running 0x07).inQ.length ∧
        outTakes Config.params (running 0x07) ((running 0x07).inQ.take (running 0x07).mlen).length) ∧
      (long 0x07).atStep ∧ 1 ≤ (long 0x07).klen ∧ (long 0x07).mlen ≤ (long 0x07).inQ.length ∧
        ¬ outTakes tight (long 0x07) ((long 0x07).inQ.take (long 0x07).mlen).length ∧
        fits ((long 0x07).outQ.length + 1) tight.outDepth :=
  ⟨⟨running_atStep _, le_rfl, le_rfl, .inr room_out⟩, long_atStep _, le_rfl, le_rfl, long_takes_one _⟩

theorem witness_DecodeCompletes :
    (∃ p, (running 0x08).atStep ∧ 1 ≤ (running 0x08).klen ∧ (running 0x08).mlen ≤ (running 0x08).inQ.length ∧
      decodeMsg Config.params ((running 0x08).inQ.take (running 0x08).mlen) ((running 0x08).keyBytes Config.params) false = some p ∧
      outTakes Config.params (running 0x08) p.length) ∧
    ∃ p, (long 0x08).atStep ∧ 1 ≤ (long 0x08).klen ∧ (long 0x08).mlen ≤ (long 0x08).inQ.length ∧
      decodeMsg tight ((long 0x08).inQ.take (long 0x08).mlen) ((long 0x08).keyBytes tight) false = some p ∧
      ¬ outTakes tight (long 0x08) p.length ∧ fits ((long 0x08).outQ.length + 1) tight.outDepth := by
  refine ⟨⟨_, running_atStep _, le_rfl, le_rfl, rfl, .inr (fits_mono room_out ?_)⟩, _, long_atStep _, le_rfl, le_rfl, rfl, ?_, (long_takes_one _).2⟩
  · simp [running, State.reset]
  · have h : ∀ b : Bytes, b.length = 2 → ¬ outTakes tight (long 0x08) b.length := fun b hb => by
      rw [hb]; exact (long_takes_one _).1
    exact h _ (by decide +kernel)

/-- Under T0 the empty message does not decompress (95_test_vectors.md V52). -/
theorem witness_DecodeFailedLeavesTablesAndNoOutput :
    let s := { running 0x108 with mlen := 0 }
    s.atStep ∧ 1 ≤ s.klen ∧ s.mlen ≤ s.inQ.length ∧
      decodeMsg Toy.t0 (s.inQ.take s.mlen) (s.keyBytes Toy.t0) true = none :=
  ⟨⟨rfl, rfl, rfl, rfl⟩, le_rfl, Nat.zero_le _, rfl⟩

theorem witness_StreamStartSteps :
    { running 0x09 with pkt := .key }.pkt = .key ∧ (running 0x09).atStep ∧ (running 0x09).started = false ∧ (running 0x09).status.abortreq = false ∧
      (running 0x09).mlen ≤ (running 0x09).inQ.length := ⟨rfl, running_atStep _, rfl, rfl, le_rfl⟩

theorem witness_SencBlockStep :
    let s := inBlock 0x09
    s.atStep ∧ s.started = true ∧ s.status.abortreq = false ∧ s.bidx < s.totb ∧ 1 ≤ (s.chainValue Config.params).length ∧
      min 8192 (s.ltot - 8192 * s.bidx) ≤ s.inQ.length ∧ (∀ bs rs, streamsOpen Config.params s bs rs) ∧
      fits (s.outQ.length + min 8192 (s.ltot - 8192 * s.bidx)) Config.params.outDepth ∧
      s.bidx % s.intv = 0 ∧ fits (s.evtQ.length + 1) Config.params.evtDepth :=
  ⟨inBlock_atStep _, rfl, rfl, by decide, le_rfl, le_rfl, fun _ _ => ⟨fun _ => room_out, fun _ => room_evt⟩, room_out,
    rfl, room_evt⟩

theorem witness_SdecBlockStep :
    let s := inBlock 0x0A
    s.atStep ∧ s.started = true ∧ s.status.abortreq = false ∧ s.bidx < s.totb ∧ 1 ≤ (s.chainValue Config.params).length ∧
      min 8192 (s.ltot - 8192 * s.bidx) ≤ s.inQ.length ∧ (∀ bs rs, streamsOpen Config.params s bs rs) ∧
      fits (s.outQ.length + min 8192 (s.ltot - 8192 * s.bidx)) Config.params.outDepth ∧
      s.bidx % s.intv = 0 ∧ fits (s.evtQ.length + 1) Config.params.evtDepth :=
  ⟨inBlock_atStep _, rfl, rfl, by decide, le_rfl, le_rfl, fun _ _ => ⟨fun _ => room_out, fun _ => room_evt⟩, room_out,
    rfl, room_evt⟩

theorem witness_StreamFinalSteps :
    let s := { atEnd 0x10A with zbuf := Config.params.compress [0x5A] }
    s.atStep ∧ s.started = true ∧ s.status.abortreq = false ∧ s.bidx = s.totb ∧
      fits (s.evtQ.length + 1) Config.params.evtDepth ∧ Config.params.decompress s.zbuf = some [0x5A] ∧
      fits (s.outQ.length + ([0x5A] : Bytes).length) Config.params.outDepth ∧
      ∀ bs rs, streamsOpen Config.params s bs rs :=
  ⟨⟨rfl, rfl, rfl, rfl⟩, rfl, rfl, rfl, room_evt, Config.params.lossless _, room_out,
    fun _ _ => ⟨fun _ => room_out, fun _ => room_evt⟩⟩

theorem witness_SdecDecodeFailedPushesNothing :
    let s := atEnd 0x10A
    s.atStep ∧ s.started = true ∧ s.status.abortreq = false ∧ s.bidx = s.totb ∧ Toy.t0.decompress s.zbuf = none :=
  ⟨atEnd_atStep _, rfl, rfl, rfl, by decide⟩

theorem witness_AbortWhileIdleCompletes : (running 0x0F).atStep := running_atStep _

theorem witness_RequestedAbortEndsAStreamCommand :
    let s := { inBlock 0x09 with status := { (inBlock 0x09).status with abortreq := true } }
    isStream (.senc false) = true ∧ s.atStep ∧ s.status.abortreq = true := ⟨rfl, ⟨rfl, rfl, rfl, rfl⟩, rfl⟩

/-! ### Whole-machine rules -/

theorem witness_EngineHoldsForInput :
    let s := { running 0x07 with inQ := [] }
    let u := { running 0x109 with inQ := [] }
    (s.atStep ∧ s.inQ.length < stepTakes (.encode false) s ∧ isStream (.encode false) = false) ∧
      (u.atStep ∧ u.inQ.length < stepTakes (.senc true) u ∧ u.status.abortreq = false) ∧
      let v := { inBlock 0x0A with inQ := [] }
      v.atStep ∧ v.inQ.length < stepTakes (.sdec false) v ∧ v.status.abortreq = false :=
  ⟨⟨⟨rfl, rfl, rfl, rfl⟩, by decide, rfl⟩, ⟨⟨rfl, rfl, rfl, rfl⟩, by decide, rfl⟩, ⟨rfl, rfl, rfl, rfl⟩, by decide, rfl⟩

/-- STRETCH with OUT full under `tight`, the final step of SENC with EVT full under `tight`, and STRETCH with OUT empty. -/
theorem witness_StepsNeedStreamSpace :
    (let s := { running 0x01 with outQ := [0x11] };
      s.atStep ∧ stepTakes (.stretch false) s ≤ s.inQ.length ∧ isStream (.stretch false) = false ∧
        ¬ streamsOpen tight s (stepBytes tight (.stretch false) s) (stepRecords tight (.stretch false) s)) ∧
    (let s := { atEnd 0x09 with evtQ := [⟨0, 1, 0, 1⟩] };
      s.atStep ∧ stepTakes (.senc false) s ≤ s.inQ.length ∧ s.status.abortreq = false ∧
        ¬ streamsOpen tight s (stepBytes tight (.senc false) s) (stepRecords tight (.senc false) s)) ∧
    (let s := running 0x01;
      s.atStep ∧ streamsOpen tight s (stepBytes tight (.stretch false) s) (stepRecords tight (.stretch false) s)) := by
  refine ⟨⟨⟨rfl, rfl, rfl, rfl⟩, Nat.zero_le _, rfl, fun h => ?_⟩, ⟨⟨rfl, rfl, rfl, rfl⟩, Nat.zero_le _, rfl, fun h => ?_⟩,
    running_atStep _, fun _ => ?_, fun h => absurd rfl h⟩
  · have := h.1 (by decide +kernel)
    simp [fits, tight] at this
  · have := h.2 (by decide +kernel)
    simp [fits, tight] at this
  · simp [fits, tight, running, State.reset]

/-- R16, R243 c: SENC before its final step holds while EVT is full, and a requested ABORT then ends it with ABORTED = 1. -/
theorem test_full_evt_holds_and_abort_goes_first :
    let s := { atEnd 0x09 with evtQ := [⟨0, 1, 0, 1⟩] };
    sencCommand tight false s = s ∧
      let t := sencCommand tight false { s with status := { s.status with abortreq := true } };
      t.status.aborted = true ∧ t.status.busy = false ∧ t.evtQ = s.evtQ := by
  refine ⟨?_, ?_⟩ <;> decide +kernel

theorem witness_WaitingPushesKeepTheirOrder :
    (let s := { running 0x01 with pend := [.byte 0x5A], fin := true };
      s.cmdPort = none ∧ s.status.busy = true ∧ s.pend ≠ []) ∧
    (let s := { running 0x01 with fin := true };
      s.cmdPort = none ∧ s.status.busy = true ∧ s.fin = true) ∧
    (let s := { running 0x01 with outQ := [0x5A], pend := [.byte 0x5B], fin := true };
      (s.drain tight).pend = [.byte 0x5B] ∧ s.pend = [.byte 0x5B] ∧ ¬ fits (s.outQ.length + 1) tight.outDepth) ∧
    (let s := { running 0x09 with evtQ := [⟨0, 1, 0, 1⟩], pend := [.record ⟨1, 1, 1, 1⟩], fin := true };
      s.pend = [.record ⟨1, 1, 1, 1⟩] ∧ ¬ fits (s.evtQ.length + 1) tight.evtDepth ∧
        (s.drain tight).pend = [.record ⟨1, 1, 1, 1⟩]) ∧
    ({ running 0x01 with pend := [.byte 0x5A], fin := true }.drain tight).pend = [] := by
  refine ⟨⟨rfl, rfl, by simp⟩, ⟨rfl, rfl, rfl⟩, ⟨by decide, rfl, ?_⟩, ⟨rfl, ?_, by decide⟩, by decide⟩ <;> simp [fits, tight]

theorem witness_EngineNeverWritesHostOperands : ∃ t, exec .encb (running 0x03) = .next t := ⟨_, rfl⟩

theorem witness_BufferFrames :
    (∃ t, exec .encb (running 0x03) = .next t) ∧ (∃ t, exec (.stretch true) (running 0x201) = .next t) ∧
      ∃ t, exec (.genperm true) (running 0x202) = .next t := ⟨⟨_, rfl⟩, ⟨_, rfl⟩, _, rfl⟩

theorem witness_RegisterFrames :
    (∃ t, exec (.stretch false) (running 0x01) = .next t) ∧ (running 0x01).pend = [] ∧ isStream (.stretch false) = false :=
  ⟨⟨_, rfl⟩, rfl, rfl⟩

theorem witness_OnlyResetClearsPvalid :
    let s := { idleMove .reset with status := { Status.reset with pvalid := true } }
    ∃ t, step s = .next t ∧ s.status.pvalid = true ∧ t.status.pvalid = false := ⟨_, rfl, rfl, rfl⟩

/-! ### The host's moves -/

/-- One state for each clause; OPB at its largest value, a read-only register, the last byte of BKEY. -/
theorem witness_IdleHostAccess :
    (∀ m, (idleMove m).cmdPort = none ∧ (idleMove m).status.busy = false ∧ (idleMove m).sched = [.host m]) ∧
      0xFFFF < 2 ^ 16 ∧ (10, State.reset.intv) ∈ [(9, State.reset.totb), (10, State.reset.intv)] ∧ ((6 : Nat) = 1 ∨ 6 ≤ 6) ∧ indexExists Config.params .bkey 8191 = true :=
  ⟨fun _ => ⟨rfl, rfl, rfl⟩, by decide, by decide, by decide, by decide⟩

theorem witness_IdleBufferLoads :
    let s := idleMove (.ldb .bkey 8191 0x5A)
    s.cmdPort = none ∧ s.status.busy = false ∧ indexExists Config.params .bkey 8191 = true ∧
      s.sched = [.host (.ldb .bkey 8191 0x5A)] ∧ ∀ sp, (s.buffer sp).wf (s.fresh Config.params sp) := by
  refine ⟨rfl, rfl, by decide, rfl, fun sp => ?_⟩
  cases sp <;> simp [State.buffer, idleMove, State.reset, Memory.wf]

theorem witness_BusyHostAccess :
    ∀ m, (busyMove m).cmdPort = none ∧ (busyMove m).status.busy = true ∧ (busyMove m).sched = [.host m] :=
  fun _ => ⟨rfl, rfl, rfl⟩

theorem witness_AbsentPlacesReadZero :
    (∀ m, (idleMove m).cmdPort = none ∧ (idleMove m).sched = [.host m]) ∧ 11 ≤ 11 ∧
      indexExists Config.params .bkey 8192 = false ∧ indexExists Config.params .perm 256 = false :=
  ⟨fun _ => ⟨rfl, rfl⟩, by decide, by decide, by decide⟩

theorem witness_StreamPortsAreFifo :
    ((idleMove (.push 0x5A)).cmdPort = none ∧ fits ((idleMove (.push 0x5A)).inQ.length + 1) Config.params.inDepth ∧
        (idleMove (.push 0x5A)).sched = [.host (.push 0x5A)]) ∧
      (let s := { busyMove .pop with outQ := [0x5A, 0x5B] };
        s.cmdPort = none ∧ s.outQ = 0x5A :: [0x5B] ∧ s.sched = [.host .pop]) ∧
      (let s := { busyMove .popevt with evtQ := [⟨1, 1, 1, 1⟩] };
        s.cmdPort = none ∧ s.evtQ = ⟨1, 1, 1, 1⟩ :: [] ∧ s.sched = [.host .popevt]) :=
  ⟨⟨rfl, fits_one Config.params.inDepth_pos, rfl⟩, ⟨rfl, rfl, rfl⟩, rfl, rfl, rfl⟩

/-- A full IN under `tight`, idle and with a requested abort, an engine that waits for a byte, and a pop of an empty OUT. -/
theorem witness_DisabledHostMovesWait :
    (let s := { State.reset with inQ := [0x5A] };
      s.status.busy = false ∧ ¬ fits (s.inQ.length + 1) tight.inDepth) ∧
    (let s := { inBlock 0x09 with status := { (inBlock 0x09).status with abortreq := true } };
      s.atStep ∧ decode s.lcmd = .ok (.senc false) ∧ isStream (.senc false) = true ∧ s.status.abortreq = true ∧
        ¬ fits (s.inQ.length + 1) tight.inDepth) ∧
    (let s := { running 0x07 with mlen := 2 };
      s.atStep ∧ decode s.lcmd = .ok (.encode false) ∧ s.inQ.length < stepTakes (.encode false) s ∧
        isStream (.encode false) = false) ∧
    (let s := { running 0x01 with pend := [.byte 0x5A] };
      s.status.busy = true ∧ s.pend ≠ [] ∧ ¬ fits (s.inQ.length + 1) tight.inDepth) ∧
    (let s := running 0x03;
      s.atStep ∧ decode s.lcmd = .ok .encb ∧ stepTakes .encb s ≤ s.inQ.length ∧ ¬ fits (s.inQ.length + 1) tight.inDepth) ∧
    ((idleMove .pop).cmdPort = none ∧ (idleMove .pop).sched = [.host .pop] ∧
      hostMove Config.params .pop { idleMove .pop with sched := [] } = none ∧ (idleMove .pop).status.busy = false) ∧
    (busyMove .pop).cmdPort = none ∧ (busyMove .pop).sched = [.host .pop] ∧
      hostMove Config.params .pop { busyMove .pop with sched := [] } = none ∧ (busyMove .pop).status.busy = true ∧
      decode (busyMove .pop).lcmd = .ok (.senc false) := by
  refine ⟨⟨rfl, ?_⟩, ⟨⟨rfl, rfl, rfl, rfl⟩, rfl, rfl, rfl, ?_⟩, ⟨⟨rfl, rfl, rfl, rfl⟩, rfl, by decide, rfl⟩,
    ⟨rfl, by simp, ?_⟩, ⟨⟨rfl, rfl, rfl, rfl⟩, rfl, by decide, ?_⟩, ⟨rfl, rfl, rfl, rfl⟩, rfl, rfl, rfl, rfl, rfl⟩ <;>
    simp [fits, tight, inBlock, running]

theorem witness_ResetLeavesTheTable : (busyMove .reset).cmdPort = none ∧ (busyMove .reset).sched = [.host .reset] := ⟨rfl, rfl⟩

/-! ### The invariant -/

/-- A busy engine that has accepted ABORT meets the invariant. -/
def aborting : State := { State.reset with status := { Status.reset with busy := true }, lcmd := 0x0F }

theorem aborting_inv : aborting.Inv Config.params where
  buffersCanonical sp := by cases sp <;> simp [State.buffer, aborting, State.reset, Memory.wf]
  buffersInside sp := by cases sp <;> simp [State.buffer, aborting, State.reset]
  busyNotDone _ := rfl
  tables := by simp [aborting, State.reset, Status.reset]
  idle := by simp [aborting, State.reset, Status.reset]
  running _ := ⟨rfl, rfl, .abort, rfl, rfl, by simp [aborting, State.reset]⟩
  stream := by simp [aborting, State.reset]
  pktBounded := by simp [aborting, State.reset]
  oneBlock := by simp [aborting, State.reset, pushedBytes]
  records := by simp [aborting, State.reset]
  queues := by simp [aborting, State.reset, fits]

theorem witness_EveryStepKeepsTheInvariant : aborting.Inv Config.params ∧ ∃ t, step aborting = .next t :=
  ⟨aborting_inv, _, rfl⟩

theorem witness_InvariantStatesProceed : aborting.Inv Config.params := aborting_inv

/-! ### Whole commands -/

theorem running_streamReady (i : Instr) (w : Word) (h : decode w = .ok i) : StreamReady Config.params i (running w) :=
  { turn := running_atStep w, runs := h, notStarted := rfl, noAbort := rfl, noError := rfl, key := le_rfl, input := le_rfl,
    counted := rfl, outEmpty := rfl, evtEmpty := rfl }

theorem witness_SencRunDeliversTheStream :
    StreamReady Config.params (.senc false) (running 0x009) ∧ StreamReady Config.params (.senc true) (running 0x109) :=
  ⟨running_streamReady _ _ rfl, running_streamReady _ _ rfl⟩

theorem witness_SdecRunDeliversTheMessage :
    StreamReady Config.params (.sdec false) (running 0x00A) ∧ StreamReady Config.params (.sdec true) (running 0x10A) :=
  ⟨running_streamReady _ _ rfl, running_streamReady _ _ rfl⟩

/-- For any output of SENC there is a state that feeds it to SDEC. -/
theorem witness_SdecUndoesSenc :
    StreamReady Config.params (.senc false) (running 0x009) ∧
      ∀ out : Bytes, let u := { running 0x00A with mlen := out.length, inQ := out }
        StreamReady Config.params (.sdec false) u ∧ u.keyBytes Config.params = (running 0x009).keyBytes Config.params ∧
          u.mlen = out.length ∧ u.inQ.take u.mlen = out := by
  refine ⟨running_streamReady _ _ rfl, fun out => ⟨?_, rfl, rfl, by simp⟩⟩
  exact { turn := ⟨rfl, rfl, rfl, rfl⟩, runs := (rfl : decode 0x00A = .ok (.sdec false)), notStarted := rfl, noAbort := rfl, noError := rfl, key := le_rfl,
          input := le_rfl, counted := rfl, outEmpty := rfl, evtEmpty := rfl }

end Sys2Proof.Machine.Witness
end

namespace Sys2Proof.Machine

/-! ### The operands only the host writes (spec/20_memory.md R77) -/

/-- `t` has the KEY buffer, KLEN, MLEN and OPB of `s`, and the reset count by which unlisted bytes of KEY are read. -/
structure State.SameHostOperands (s t : State) : Prop where
  key    : t.key = s.key
  resets : t.resets = s.resets
  klen   : t.klen = s.klen
  mlen   : t.mlen = s.mlen
  opb    : t.opb = s.opb

namespace State.SameHostOperands

/-- Every byte of KEY, unlisted ones included, is determined by the fields that agree. -/
theorem byteAt_key {s t : State} (h : s.SameHostOperands t) (P : Params) (j : Nat) :
    t.byteAt P .key j = s.byteAt P .key j := by
  simp [State.byteAt, h.key, h.resets]

theorem refl (s : State) : s.SameHostOperands s := ⟨rfl, rfl, rfl, rfl, rfl⟩

theorem trans {s t u : State} (hst : s.SameHostOperands t) (htu : t.SameHostOperands u) : s.SameHostOperands u where
  key := htu.key.trans hst.key
  resets := htu.resets.trans hst.resets
  klen := htu.klen.trans hst.klen
  mlen := htu.mlen.trans hst.mlen
  opb := htu.opb.trans hst.opb

theorem clearCmdPort (s : State) : s.SameHostOperands { s with cmdPort := none } := ⟨rfl, rfl, rfl, rfl, rfl⟩

theorem abortStep (s : State) : s.SameHostOperands s.abortStep := ⟨rfl, rfl, rfl, rfl, rfl⟩

theorem abortWhileBusy (s : State) : s.SameHostOperands (abortWhileBusy s) := ⟨rfl, rfl, rfl, rfl, rfl⟩

theorem busyWriteOf (i : Instr) (s : State) : s.SameHostOperands (busyWriteOf i s) := by
  rcases busyWriteOf_cases i s with h | h <;> rw [h]
  · exact .refl s
  · exact .abortWhileBusy s

/-- Acceptance and every refused acceptance write LCMD, STATUS, OLEN and the sequencer only. -/
theorem accept (w : Word) (checks : List Check) (s : State) : s.SameHostOperands (s.accept w checks) := by
  cases h : firstError checks with
  | none => rw [State.accept_of_none h]; exact ⟨rfl, rfl, rfl, rfl, rfl⟩
  | some e => rw [State.accept_of_some h]; exact ⟨rfl, rfl, rfl, rfl, rfl⟩

theorem drain (P : Params) (s : State) : s.SameHostOperands (s.drain P) := by
  rw [State.drain_frame]
  exact ⟨rfl, rfl, rfl, rfl, rfl⟩

theorem bodyOf (P : Params) (i : Instr) (s : State) : s.SameHostOperands (bodyOf P i s) := by
  obtain ⟨hresets, hkey, hklen, hmlen, hopb, -⟩ := bodyOf_frame P i s
  exact ⟨hkey, hresets, hklen, hmlen, hopb⟩

/-- Each transition of a command is one of the operations above, or two of them in a row. -/
theorem of_exec {i : Instr} {s t : State} (h : exec i s = .next t) : s.SameHostOperands t :=
  exec_cases State.SameHostOperands i s t h
    (busyWrite := fun _ _ _ => (clearCmdPort s).trans (busyWriteOf i _))
    (accept := fun w _ _ => (clearCmdPort s).trans (accept w _ _))
    (stay := fun _ => refl s)
    (abort := fun _ _ _ _ _ => abortStep s)
    (pushes := fun _ _ _ => drain _ s)
    (body := fun _ _ _ _ _ _ => (bodyOf _ i s).trans (drain _ _))

end State.SameHostOperands

/-- Settles O42: every transition of a command keeps the operands that only the host writes. -/
theorem engineNeverWritesHostOperands : Obligations.EngineNeverWritesHostOperands := by
  intro i s t h
  have same : s.SameHostOperands t := .of_exec h
  exact ⟨same.byteAt_key Config.params, same.klen, same.mlen, same.opb⟩

end Sys2Proof.Machine

namespace Sys2Proof

/-! ### The fields of a word (spec/30_encoding.md R91) -/

/-- The four fields cover the word, bit by bit. -/
theorem wordOf_fieldsOf (w : Word) : wordOf (fieldsOf w) = w := by
  ext i hi
  simp only [wordOf, fieldsOf, flagC, flagSel, ← BitVec.getLsbD_eq_getElem, BitVec.getLsbD_append, BitVec.getLsbD_ofBool,
    BitVec.getLsbD_extractLsb']
  obtain hopc | rfl | rfl | hrsv : i < 8 ∨ i = 8 ∨ i = 9 ∨ 10 ≤ i := by omega
  · simp [hopc]
  · simp
  · simp
  · have hpos : 10 + (i - 8 - 1 - 1) = i := by omega
    simp [hpos, show ¬ i < 8 by omega, show i - 8 ≠ 0 by omega, show i - 8 - 1 ≠ 0 by omega,
      show i - 8 - 1 - 1 < 22 by omega]

theorem fieldsOf_inj {w v : Word} : fieldsOf w = fieldsOf v ↔ w = v :=
  ⟨fun h => by rw [← wordOf_fieldsOf w, h, wordOf_fieldsOf], congrArg fieldsOf⟩

theorem fieldsOf_and (w m : Word) :
    fieldsOf (w &&& m) =
      ⟨(fieldsOf w).opc &&& (fieldsOf m).opc, (fieldsOf w).c && (fieldsOf m).c, (fieldsOf w).sel && (fieldsOf m).sel,
        (fieldsOf w).rsv &&& (fieldsOf m).rsv⟩ := by
  simp [fieldsOf, flagC, flagSel, BitVec.extractLsb'_and]

theorem fieldsOf_opc_toNat (w : Word) : (fieldsOf w).opc.toNat = w.toNat % 256 := by
  simp [fieldsOf]

theorem fieldsOf_rsv_eq_zero_iff (w : Word) : (fieldsOf w).rsv = 0 ↔ w.toNat / 2 ^ 10 = 0 := by
  have hw := w.isLt
  simp [fieldsOf, ← BitVec.toNat_inj, Nat.shiftRight_eq_div_pow]
  omega

/-! ### The command map and the legal fields (spec/30_encoding.md R93, R94) -/

/-- A word selects a row when it has the row's pattern under its mask (R93). -/
def Row.selects (r : Row) (w : Word) : Prop := w &&& r.mask = r.pattern

/-- The opcode of a row (R93). -/
def Row.opc (r : Row) : BitVec 8 := (fieldsOf r.pattern).opc

theorem CommandFields.compressAccepted_iff (f : CommandFields) :
    f.compressAccepted = true ↔ (f.c = true → 7 ≤ f.opc.toNat ∧ f.opc.toNat ≤ 10) := by
  cases hc : f.c <;> simp [CommandFields.compressAccepted, hc]

theorem CommandFields.selectAccepted_iff (f : CommandFields) :
    f.selectAccepted = true ↔ (f.sel = true → f.opc = 0x01 ∨ f.opc = 0x02) := by
  cases hs : f.sel <;> simp [CommandFields.selectAccepted, hs]

/-- C is accepted when it is clear under the mask of an opcode that refuses it. -/
theorem CommandFields.masked_c_eq_false_iff (f : CommandFields) :
    (f.c && !(CommandFields.mk f.opc true false 0).compressAccepted) = false ↔ f.compressAccepted = true := by
  cases hc : f.c <;> simp [compressAccepted_iff, hc]

/-- SEL is accepted when it is clear under the mask of an opcode that refuses it. -/
theorem CommandFields.masked_sel_eq_false_iff (f : CommandFields) :
    (f.sel && !(CommandFields.mk f.opc false true 0).selectAccepted) = false ↔ f.selectAccepted = true := by
  cases hs : f.sel <;> simp [selectAccepted_iff, hs]

/-- A row's pattern is its opcode alone. -/
theorem fieldsOf_pattern : ∀ r ∈ rows, fieldsOf r.pattern = ⟨r.opc, false, false, 0⟩ := by decide

/-- A row's mask leaves free the flags that its opcode accepts, and nothing else. -/
theorem fieldsOf_mask : ∀ r ∈ rows, fieldsOf r.mask =
    ⟨.allOnes 8, !(CommandFields.mk r.opc true false 0).compressAccepted,
      !(CommandFields.mk r.opc false true 0).selectAccepted, .allOnes 22⟩ := by decide

theorem rows_opc : rows.map Row.opc = [0x01, 0x02, 0x03, 0x04, 0x05, 0x06, 0x07, 0x08, 0x09, 0x0A, 0x0F] := by decide

/-- The assigned opcodes are those of the rows. -/
theorem CommandFields.assigned_iff (f : CommandFields) : f.assigned = true ↔ ∃ r ∈ rows, f.opc = r.opc := by
  have mem : (∃ r ∈ rows, f.opc = r.opc) ↔ f.opc ∈ rows.map Row.opc := by simp [eq_comm]
  rw [mem, rows_opc]
  simp [CommandFields.assigned, ← BitVec.toNat_inj]
  omega

theorem CommandFields.legal_iff (f : CommandFields) :
    f.legal = true ↔
      f.assigned = true ∧ f.rsv = 0 ∧ f.compressAccepted = true ∧ f.selectAccepted = true := by
  simp [CommandFields.legal, CommandFields.reservedClear]
  tauto

/-- A word selects a row when it has the row's opcode and is not illegal for its other fields. -/
theorem Row.selects_iff {r : Row} (hr : r ∈ rows) (w : Word) :
    r.selects w ↔
      (fieldsOf w).opc = r.opc ∧ (fieldsOf w).rsv = 0 ∧ (fieldsOf w).compressAccepted = true ∧
        (fieldsOf w).selectAccepted = true := by
  rw [Row.selects, ← fieldsOf_inj, fieldsOf_and, fieldsOf_mask r hr, fieldsOf_pattern r hr,
    ← CommandFields.masked_c_eq_false_iff, ← CommandFields.masked_sel_eq_false_iff]
  simp only [BitVec.and_allOnes, CommandFields.mk.injEq]
  constructor
  · rintro ⟨hopc, hc, hs, hrsv⟩
    exact ⟨hopc, hrsv, hopc ▸ hc, hopc ▸ hs⟩
  · rintro ⟨hopc, hrsv, hc, hs⟩
    exact ⟨hopc, hopc ▸ hc, hopc ▸ hs, hrsv⟩

theorem exists_selects_iff_legal (w : Word) : (∃ r ∈ rows, r.selects w) ↔ (fieldsOf w).legal = true := by
  rw [CommandFields.legal_iff, CommandFields.assigned_iff]
  constructor
  · rintro ⟨r, hr, hsel⟩
    obtain ⟨hopc, hrest⟩ := (Row.selects_iff hr w).1 hsel
    exact ⟨⟨r, hr, hopc⟩, hrest⟩
  · rintro ⟨⟨r, hr, hopc⟩, hrest⟩
    exact ⟨r, hr, (Row.selects_iff hr w).2 ⟨hopc, hrest⟩⟩

/-- The decoder refuses the words that select no row. -/
theorem decode_error_iff_selects (w : Word) : (∃ e, decode w = .error e) ↔ ¬ ∃ r ∈ rows, r.selects w := by
  unfold decode
  cases hfind : rows.find? (fun r => w &&& r.mask == r.pattern) with
  | none => simpa [Row.selects] using hfind
  | some r =>
    have hsel : r.selects w := by simpa [Row.selects] using List.find?_some hfind
    simpa using ⟨r, List.mem_of_find?_eq_some hfind, hsel⟩

/-- The decoder refuses the words whose fields are not legal. -/
theorem decode_error_iff_not_legal (w : Word) : (∃ e, decode w = .error e) ↔ (fieldsOf w).legal = false := by
  rw [decode_error_iff_selects, exists_selects_iff_legal, Bool.not_eq_true]

/-- R94's list, of the fields of a word, read on the word itself. -/
theorem fieldsOf_legal_eq_false_iff (w : Word) :
    (fieldsOf w).legal = false ↔
      w.toNat % 256 = 0 ∨ (0x0B ≤ w.toNat % 256 ∧ w.toNat % 256 ≤ 0x0E) ∨ 0x10 ≤ w.toNat % 256 ∨ w.toNat / 2 ^ 10 ≠ 0 ∨
        (w.getLsbD 8 = true ∧ ¬ (7 ≤ w.toNat % 256 ∧ w.toNat % 256 ≤ 10)) ∨
        (w.getLsbD 9 = true ∧ ¬ (w.toNat % 256 = 1 ∨ w.toNat % 256 = 2)) := by
  have assigned : (fieldsOf w).assigned = true ↔
      (1 ≤ w.toNat % 256 ∧ w.toNat % 256 ≤ 10) ∨ w.toNat % 256 = 15 := by
    simp [CommandFields.assigned, ← BitVec.toNat_inj, fieldsOf_opc_toNat]
  have compress : (fieldsOf w).compressAccepted = true ↔
      (w.getLsbD 8 = true → 7 ≤ w.toNat % 256 ∧ w.toNat % 256 ≤ 10) := by
    rw [CommandFields.compressAccepted_iff, fieldsOf_opc_toNat]; rfl
  have select : (fieldsOf w).selectAccepted = true ↔
      (w.getLsbD 9 = true → w.toNat % 256 = 1 ∨ w.toNat % 256 = 2) := by
    rw [CommandFields.selectAccepted_iff, ← BitVec.toNat_inj, ← BitVec.toNat_inj, fieldsOf_opc_toNat]; rfl
  rw [← Bool.not_eq_true, CommandFields.legal_iff, assigned, fieldsOf_rsv_eq_zero_iff, compress, select]
  cases w.getLsbD 8 <;> cases w.getLsbD 9 <;> simp <;> omega

end Sys2Proof

namespace Sys2Proof.Machine

/-! ### A CMD write (spec/44_control.md R240, R245) -/

/-- A word standing at CMD is taken next. -/
theorem step_of_cmdPort {s : State} {w : Word} (hp : s.cmdPort = some w) : step s = writeCommand w s := by
  simp [step, nextMove, hp]

/-- The host's scheduled CMD write is taken in the same step. -/
theorem step_of_cmdWrite {s : State} {rest : List Move} {v : Nat} (hp : s.cmdPort = none)
    (hs : s.sched = .host (.wr 0 v) :: rest) :
    step s = writeCommand (BitVec.ofNat 32 v) { s with sched := rest } := by
  simp [step, nextMove, hp, hs, hostTurn]

/-- An illegal word at an idle engine raises ILLEGAL_CMD (spec/60_exceptions.md R254). -/
theorem writeCommand_illegal_idle {w : Word} {s : State} (hw : ∃ e, decode w = .error e) (hb : s.status.busy = false) :
    writeCommand w s = .next (turnedAway w .illegalCmd s) := by
  obtain ⟨e, he⟩ := hw
  simp [writeCommand, he, State.illegalWrite, hb, State.raise, State.latch, turnedAway, Status.failed, Status.cleared]

/-- An illegal word at a busy engine is dropped (spec/44_control.md R245). -/
theorem writeCommand_illegal_busy {w : Word} {s : State} (hw : ∃ e, decode w = .error e) (hb : s.status.busy = true) :
    writeCommand w s = .next { s with cmdPort := none } := by
  obtain ⟨e, he⟩ := hw
  simp [writeCommand, he, State.illegalWrite, hb]

/-- Settles O4: the decoder refuses R94's list, and a refused word at CMD or in the host's scheduled write is
ILLEGAL_CMD when idle and nothing when busy. -/
theorem illegalWordsRaiseIllegalCmd : Obligations.IllegalWordsRaiseIllegalCmd := by
  intro w
  refine ⟨(decode_error_iff_not_legal w).trans (fieldsOf_legal_eq_false_iff w), fun s hp hw => ?atPort,
    fun s rest hp hs hw => ?scheduled⟩
  case atPort =>
    rw [step_of_cmdPort hp]
    exact ⟨writeCommand_illegal_idle hw, writeCommand_illegal_busy hw⟩
  case scheduled =>
    rw [step_of_cmdWrite hp hs, BitVec.ofNat_toNat, BitVec.setWidth_eq]
    exact ⟨fun hb => writeCommand_illegal_idle hw hb, fun hb => by
      simpa only [hp] using writeCommand_illegal_busy (s := { s with sched := rest }) hw hb⟩

end Sys2Proof.Machine

namespace Sys2Proof.Machine

/-! ### The byte transforms (spec/42_blocktransform.md R160 to R162) -/

theorem encodeByte_eq_getD (p k : Byte) (t : Bytes) :
    encodeByte p k t = t.getD ((p.toNat + k.toNat) % 256) 0 := by
  rw [encodeByte, entry, BitVec.toNat_add]

/-- A difference that would be negative is raised by 256 (R161, spec/00_scope.md R13). -/
theorem decodeByte_toNat (c k : Byte) (q : Bytes) :
    (decodeByte c k q).toNat =
      if k.toNat ≤ (entry q c.toNat).toNat then (entry q c.toNat).toNat - k.toNat
      else (entry q c.toNat).toNat + 256 - k.toNat := by
  rw [decodeByte]
  split
  case isTrue h => exact BitVec.toNat_sub_of_le h
  case isFalse h => rw [BitVec.toNat_sub_of_lt (Nat.lt_of_not_le h)]; omega

/-- Settles O8: the sum wraps by `encodeByte_eq_getD`, the difference by `decodeByte_toNat`. -/
theorem byteTransformsAddAndSubtractModulo256 : Obligations.ByteTransformsAddAndSubtractModulo256 :=
  ⟨encodeByte_eq_getD, decodeByte_toNat⟩

theorem decodeByte_encodeByte {p q : Bytes} (hqp : ∀ i : Byte, entry q (entry p i.toNat).toNat = i) (x k : Byte) :
    decodeByte (encodeByte x k p) k q = x := by
  rw [decodeByte, encodeByte, hqp, BitVec.add_sub_cancel]

theorem encodeByte_decodeByte {p q : Bytes} (hpq : ∀ v : Byte, entry p (entry q v.toNat).toNat = v) (c k : Byte) :
    encodeByte (decodeByte c k q) k p = c := by
  rw [decodeByte, encodeByte, BitVec.sub_add_cancel, hpq]

/-- Settles O9: each composition cancels the key byte and then the tables, so under inverse tables decoding with the same
key byte is the two-sided inverse of encoding. -/
theorem byteRoundTrip : Obligations.ByteRoundTrip := by
  intro p q
  refine ⟨decodeByte_encodeByte, encodeByte_decodeByte, fun ⟨_, _, _, hpq, hqp⟩ k => ?bijective⟩
  case bijective =>
    exact Function.bijective_iff_has_inverse.mpr
      ⟨fun c => decodeByte c k q, fun x => decodeByte_encodeByte hqp x k, fun c => encodeByte_decodeByte hpq c k⟩

/-! ### The block transforms (spec/42_blocktransform.md R163 to R165) -/

theorem getD_zipWith (f : Byte → Byte → Byte) {b k : Bytes} {i : Nat} (hb : i < b.length) (hk : i < k.length) :
    (List.zipWith f b k).getD i 0 = f (b.getD i 0) (k.getD i 0) := by
  have hz : i < (List.zipWith f b k).length := by rw [List.length_zipWith]; exact lt_min hb hk
  rw [List.getD_eq_getElem _ _ hz, List.getD_eq_getElem _ _ hb, List.getD_eq_getElem _ _ hk, List.getElem_zipWith]

theorem encodeBlock_getD {b k : Bytes} (t : Bytes) {i : Nat} (hb : i < b.length) (hk : i < k.length) :
    (encodeBlock b k t).getD i 0 = encodeByte (b.getD i 0) (k.getD i 0) t :=
  getD_zipWith _ hb hk

theorem decodeBlock_getD {b k : Bytes} (t : Bytes) {i : Nat} (hb : i < b.length) (hk : i < k.length) :
    (decodeBlock b k t).getD i 0 = decodeByte (b.getD i 0) (k.getD i 0) t :=
  getD_zipWith _ hb hk

theorem encodeBlock_length_of_le {b k : Bytes} (h : b.length ≤ k.length) (t : Bytes) :
    (encodeBlock b k t).length = b.length := by
  rw [encodeBlock_length, min_eq_left h]

theorem decodeBlock_length_of_le {b k : Bytes} (h : b.length ≤ k.length) (t : Bytes) :
    (decodeBlock b k t).length = b.length := by
  rw [decodeBlock_length, min_eq_left h]

/-- Settles O10: a key as long as the block has a byte for each of its positions. -/
theorem blockTransformsArePositional : Obligations.BlockTransformsArePositional := by
  intro b k t h
  refine ⟨encodeBlock_length_of_le h t, decodeBlock_length_of_le h t, fun i hi => ?position⟩
  case position =>
    have hk : i < k.length := hi.trans_le h
    exact ⟨encodeBlock_getD t hi hk, decodeBlock_getD t hi hk⟩

/-- The block guarantee needs one of the two inverse laws only: it is the byte round trip at each position. -/
theorem decodeBlock_encodeBlock {b k p q : Bytes} (h : b.length ≤ k.length)
    (hqp : ∀ i : Byte, entry q (entry p i.toNat).toNat = i) : decodeBlock (encodeBlock b k p) k q = b := by
  have hc : (encodeBlock b k p).length = b.length := encodeBlock_length_of_le h p
  have hd : (decodeBlock (encodeBlock b k p) k q).length = b.length := by
    rw [decodeBlock_length_of_le (hc.trans_le h), hc]
  refine List.ext_getElem hd fun i hi hb => ?position
  case position =>
    have hk : i < k.length := hb.trans_le h
    calc (decodeBlock (encodeBlock b k p) k q)[i]
        = (decodeBlock (encodeBlock b k p) k q).getD i 0 := (List.getD_eq_getElem _ _ hi).symm
      _ = decodeByte ((encodeBlock b k p).getD i 0) (k.getD i 0) q := decodeBlock_getD q (hc ▸ hb) hk
      _ = decodeByte (encodeByte (b.getD i 0) (k.getD i 0) p) (k.getD i 0) q := by rw [encodeBlock_getD p hb hk]
      _ = b.getD i 0 := decodeByte_encodeByte hqp _ _
      _ = b[i] := List.getD_eq_getElem _ _ hb

/-- Settles O11: the guarantee is `decodeBlock_encodeBlock`; an output byte is a function of its own block byte, its own key
byte and the table, so equal ones give equal output wherever they stand. -/
theorem blockGuarantee : Obligations.BlockGuarantee := by
  intro b k p q h
  refine ⟨fun ⟨_, _, _, _, hqp⟩ => decodeBlock_encodeBlock h hqp, fun b' k' i j h' hi hj hbyte hkey => ?noChaining⟩
  case noChaining =>
    have hk : i < k.length := hi.trans_le h
    have hk' : j < k'.length := hj.trans_le h'
    rw [encodeBlock_getD p hi hk, encodeBlock_getD p hj hk', decodeBlock_getD q hi hk, decodeBlock_getD q hj hk', hbyte, hkey]
    exact ⟨rfl, rfl⟩

end Sys2Proof.Machine

namespace Sys2Proof.Machine

/-! ### The block split (spec/43_streampipeline.md R200) -/

theorem le_mul_totalBlocks (len : Nat) : len ≤ 8192 * totalBlocks len := by
  rw [totalBlocks_eq]
  omega

theorem mul_totalBlocks_lt (len : Nat) : 8192 * totalBlocks len < len + 8192 := by
  rw [totalBlocks_eq]
  omega

/-- There is a block `i` exactly when a byte stands at its first position. -/
theorem lt_totalBlocks_iff {i len : Nat} : i < totalBlocks len ↔ 8192 * i < len := by
  rw [totalBlocks_eq]
  omega

theorem blockOf_length_pos {s : Bytes} {i : Nat} (h : i < totalBlocks s.length) : 1 ≤ (blockOf s i).length := by
  have hfirst : 8192 * i < s.length := lt_totalBlocks_iff.1 h
  rw [blockOf_length]
  omega

/-- A block with another one after it is full. -/
theorem blockOf_length_of_succ_lt {s : Bytes} {i : Nat} (h : i + 1 < totalBlocks s.length) :
    (blockOf s i).length = 8192 := by
  have hnext : 8192 * (i + 1) < s.length := lt_totalBlocks_iff.1 h
  rw [blockOf_length]
  omega

theorem lt_of_lt_blockOf_length {s : Bytes} {i j : Nat} (h : j < (blockOf s i).length) : j < 8192 := by
  rw [blockOf_length] at h
  exact h.trans_le (min_le_left _ _)

/-- The first `n` blocks, put together, are what the sequence has before block `n`. -/
theorem flatMap_range_blockOf (s : Bytes) (n : Nat) : (List.range n).flatMap (blockOf s) = s.take (8192 * n) := by
  induction n with
  | zero => rfl
  | succ n ih =>
    calc (List.range (n + 1)).flatMap (blockOf s)
        = s.take (8192 * n) ++ blockOf s n := by rw [List.range_succ, List.flatMap_append, ih, List.flatMap_singleton]
      _ = s.take (8192 * (n + 1)) := by rw [Nat.mul_succ, List.take_add]; rfl

/-- Settles O17: each clause on one block is a bound on where the block begins (`lt_totalBlocks_iff`), and the blocks
together are the prefix that reaches past the last byte (`flatMap_range_blockOf`). -/
theorem blockSplitCoversTheSequence : Obligations.BlockSplitCoversTheSequence := by
  intro s
  refine ⟨le_mul_totalBlocks _, mul_totalBlocks_lt _, fun i hi => ?block, ?together, ?empty⟩
  case block =>
    exact ⟨blockOf_length s i, blockOf_length_pos hi, blockOf_length_of_succ_lt,
      fun j hj => blockOf_getD s i (lt_of_lt_blockOf_length hj)⟩
  case together => rw [flatMap_range_blockOf, List.take_of_length_le (le_mul_totalBlocks _)]
  case empty =>
    rintro rfl
    rfl

end Sys2Proof.Machine

namespace Sys2Proof

/-! ### The word of ABORT (spec/30_encoding.md R93) -/

/-- A decoded word selects a row, whose command it is. -/
theorem exists_selects_of_decode_ok {w : Word} {i : Instr} (h : decode w = .ok i) :
    ∃ r ∈ rows, r.selects w ∧ r.build w = i := by
  unfold decode at h
  cases hfind : rows.find? (fun r => w &&& r.mask == r.pattern) with
  | none => simp [hfind] at h
  | some r =>
    have hsel : r.selects w := by simpa [Row.selects] using List.find?_some hfind
    exact ⟨r, List.mem_of_find?_eq_some hfind, hsel, by simpa [hfind] using h⟩

/-- One row builds ABORT, and its mask leaves no bit free. -/
theorem row_of_build_abort {r : Row} {w : Word} (hr : r ∈ rows) (hb : r.build w = .abort) :
    r.mask = .allOnes 32 ∧ r.pattern = abortWord := by
  simp only [rows, List.mem_cons, List.not_mem_nil, or_false] at hr
  rcases hr with rfl | rfl | rfl | rfl | rfl | rfl | rfl | rfl | rfl | rfl | rfl
  on_goal 11 => exact ⟨rfl, rfl⟩
  all_goals cases hb

theorem decode_abort_iff (w : Word) : decode w = .ok .abort ↔ w = abortWord := by
  constructor
  · intro h
    obtain ⟨r, hr, hsel, hbuild⟩ := exists_selects_of_decode_ok h
    obtain ⟨hmask, hpattern⟩ := row_of_build_abort hr hbuild
    rwa [Row.selects, hmask, hpattern, BitVec.and_allOnes] at hsel
  · rintro rfl
    rfl

end Sys2Proof

namespace Sys2Proof.Machine

/-! ### A CMD write while busy (spec/44_control.md R245) -/

theorem busyWriteOf_eq_self {i : Instr} (hi : i ≠ .abort) (s : State) : busyWriteOf i s = s := by
  cases i
  case abort => exact absurd rfl hi
  all_goals rfl

/-- A legal word at a busy engine does what its command does there, and is taken from CMD. -/
theorem writeCommand_legal_busy {w : Word} {i : Instr} {s : State} (hw : decode w = .ok i) (hb : s.status.busy = true) :
    writeCommand w s = .next (busyWriteOf i { s with cmdPort := none }) := by
  simp only [writeCommand, hw]
  exact exec_busy i (s := { s with cmdPort := some w }) rfl hb

theorem writeCommand_abort_busy {s : State} (hb : s.status.busy = true) :
    writeCommand abortWord s = .next (abortWhileBusy { s with cmdPort := none }) :=
  writeCommand_legal_busy ((decode_abort_iff _).2 rfl) hb

/-- Legal or illegal, a word that is not ABORT's is dropped by a busy engine. -/
theorem writeCommand_ignored_busy {w : Word} {s : State} (hw : w ≠ abortWord) (hb : s.status.busy = true) :
    writeCommand w s = .next { s with cmdPort := none } := by
  cases hd : decode w with
  | error e => exact writeCommand_illegal_busy ⟨e, hd⟩ hb
  | ok i =>
    have hi : i ≠ .abort := by
      rintro rfl
      exact hw ((decode_abort_iff w).1 hd)
    rw [writeCommand_legal_busy hd hb, busyWriteOf_eq_self hi]

/-- Settles O7: ABORT has one word, so every other word, legal or illegal, is dropped. -/
theorem busyCmdWriteOnlyHearsAbort : Obligations.BusyCmdWriteOnlyHearsAbort := by
  intro s w hp hb
  rw [step_of_cmdPort hp]
  by_cases hw : w = 0x0000000F
  · subst hw
    exact writeCommand_abort_busy hb
  · rw [writeCommand_ignored_busy hw hb, if_neg hw]

end Sys2Proof.Machine

namespace Sys2Proof

/-! ### Decode and encode (spec/30_encoding.md R93, R95) -/

/-- A selected row builds the command with the word's own fields: a flag it accepts is passed on, one it refuses is clear. -/
theorem Row.build_fields {r : Row} (hr : r ∈ rows) {w : Word} (h : r.selects w) : (r.build w).fields = fieldsOf w := by
  obtain ⟨hopc, hrsv, hc, hs⟩ := (Row.selects_iff hr w).1 h
  rw [CommandFields.compressAccepted_iff, hopc] at hc
  rw [CommandFields.selectAccepted_iff, hopc] at hs
  have hw : fieldsOf w = ⟨r.opc, flagC w, flagSel w, 0⟩ := by rw [← hopc, ← hrsv]; rfl
  rw [hw] at hc hs ⊢
  simp only [rows, List.mem_cons, List.not_mem_nil, or_false] at hr
  rcases hr with rfl | rfl | rfl | rfl | rfl | rfl | rfl | rfl | rfl | rfl | rfl <;>
    simp_all [Row.opc, fieldsOf, flagC, flagSel, Instr.fields]

theorem eq_encode_of_decode {w : Word} {i : Instr} (h : decode w = .ok i) : w = encode i := by
  obtain ⟨r, hr, hsel, rfl⟩ := exists_selects_of_decode_ok h
  rw [encode, Row.build_fields hr hsel, wordOf_fieldsOf]

theorem Instr.wellFormed_all (i : Instr) : i.wellFormed = true := by
  cases i with
  | stretch b | genperm b | encode b | decode b | senc b | sdec b => cases b <;> rfl
  | encb | decb | encblk | decblk | abort => rfl

theorem decode_encode (i : Instr) : decode (encode i) = .ok i := by
  cases i with
  | stretch b | genperm b | encode b | decode b | senc b | sdec b => cases b <;> rfl
  | encb | decb | encblk | decblk | abort => rfl

/-- Settles O1: a command's word by cases, a decoded word through the row it selects (`Row.build_fields`). -/
theorem decodeAndEncodeAgree : Obligations.DecodeAndEncodeAgree :=
  ⟨fun i => ⟨i.wellFormed_all, decode_encode i⟩, fun _ _ => eq_encode_of_decode⟩

theorem decode_eq_ok_iff {w : Word} {i : Instr} : decode w = .ok i ↔ w = encode i :=
  ⟨eq_encode_of_decode, fun h => h ▸ decode_encode i⟩

/-- The seventeen commands (R93). -/
def commands : List Instr :=
  [.stretch false, .stretch true, .genperm false, .genperm true, .encb, .decb, .encblk, .decblk, .encode false, .encode true,
    .decode false, .decode true, .senc false, .senc true, .sdec false, .sdec true, .abort]

theorem mem_commands (i : Instr) : i ∈ commands := by
  cases i with
  | stretch b | genperm b | encode b | decode b | senc b | sdec b => cases b <;> decide
  | encb | decb | encblk | decblk | abort => decide

theorem commands_words : commands.map (fun i => (encode i).toNat) =
    [0x001, 0x201, 0x002, 0x202, 0x003, 0x004, 0x005, 0x006, 0x007, 0x107, 0x008, 0x108, 0x009, 0x109, 0x00A, 0x10A,
      0x00F] := by decide

/-- Settles O2: a word decodes when it is the word of one of the seventeen commands. -/
theorem legalWordsAreTheSeventeen : Obligations.LegalWordsAreTheSeventeen := by
  intro w
  rw [← commands_words, List.mem_map]
  constructor
  · rintro ⟨i, h⟩
    exact ⟨i, mem_commands i, by rw [eq_encode_of_decode h]⟩
  · rintro ⟨i, -, h⟩
    exact ⟨i, decode_eq_ok_iff.2 (BitVec.eq_of_toNat_eq h.symm)⟩

/-- Settles O3: each word is the encoding of its command. -/
theorem sampleWordsDecode : Obligations.SampleWordsDecode :=
  ⟨decode_encode (.stretch true), decode_encode (.genperm false), decode_encode .encb, decode_encode .decblk,
    decode_encode (.encode true), decode_encode (.senc false), decode_encode (.sdec true), decode_encode .abort⟩

end Sys2Proof

namespace Sys2Proof.Machine

/-! ### be_bytes (spec/00_scope.md R14) -/

/-- The last byte is the least significant one. -/
theorem beBytes_succ (v n : Nat) : beBytes v (n + 1) = beBytes (v / 256) n ++ [BitVec.ofNat 8 v] := by
  simp only [beBytes, List.range_succ, List.map_append, List.map_cons, List.map_nil]
  congr 1
  · refine List.map_congr_left fun i hi => ?_
    have hi : i < n := List.mem_range.1 hi
    rw [Nat.div_div_eq_div_mul, show n + 1 - 1 - i = n - 1 - i + 1 by omega, pow_succ, Nat.mul_comm]
  · simp

/-- Read most significant byte first, `be_bytes` gives the value back. -/
theorem foldl_beBytes {v n : Nat} (h : v < 2 ^ (8 * n)) :
    (beBytes v n).foldl (fun a b => a * 256 + b.toNat) 0 = v := by
  induction n generalizing v with
  | zero =>
    have hv : v = 0 := by simpa using h
    simp [beBytes, hv]
  | succ n ih =>
    have hv : v / 256 < 2 ^ (8 * n) := Nat.div_lt_of_lt_mul (h.trans_eq (by rw [Nat.mul_succ, pow_add]; omega))
    rw [beBytes_succ, List.foldl_append, ih hv]
    simp only [List.foldl_cons, List.foldl_nil, BitVec.toNat_ofNat]
    omega

/-- Settles O12: the value by taking the last byte off (`beBytes_succ`). -/
theorem beBytesIsMostSignificantFirst : Obligations.BeBytesIsMostSignificantFirst :=
  fun v len h => ⟨beBytes_length v len, foldl_beBytes h⟩

/-! ### stretch (spec/40_keystretcher.md R120, R122) -/

section Stretch

variable (P : Params)

/-- The rounds are the iterates of one round. -/
theorem partsFrom_eq_flatMap (n : Nat) (part : Bytes) :
    partsFrom P n part = (List.range n).flatMap (fun r => (nextPart P)^[r + 1] part) := by
  induction n generalizing part with
  | zero => rfl
  | succ n ih =>
    rw [partsFrom_succ, ih, List.range_succ_eq_map, List.flatMap_cons, List.flatMap_map]
    rfl

/-- More rounds extend fewer. -/
theorem partsFrom_append {m n : Nat} (h : m ≤ n) (part : Bytes) :
    ∃ rest, partsFrom P n part = partsFrom P m part ++ rest := by
  obtain ⟨k, rfl⟩ := Nat.exists_eq_add_of_le h
  rw [partsFrom_eq_flatMap, partsFrom_eq_flatMap, List.range_add, List.flatMap_append]
  exact ⟨_, rfl⟩

theorem ceilDiv_mul_self (n : Nat) {k : Nat} (h : 1 ≤ k) : ceilDiv (n * k) k = n := by
  rw [ceilDiv, Nat.add_sub_assoc h, Nat.mul_comm, Nat.mul_add_div h, Nat.div_eq_of_lt (by omega), Nat.add_zero]

theorem stretch_mul_length (n : Nat) {key : Bytes} (h : 1 ≤ key.length) :
    stretch P key (n * key.length) = (List.range n).flatMap (fun r => (nextPart P)^[r + 1] key) := by
  rw [stretch, ceilDiv_mul_self n h, List.take_of_length_le (by rw [partsFrom_length]), partsFrom_eq_flatMap]

theorem stretch_length {key : Bytes} (h : 1 ≤ key.length) (t : Nat) : (stretch P key t).length = t := by
  rw [stretch, List.length_take, partsFrom_length, min_eq_left (le_ceilDiv_mul t h)]

theorem stretch_take {key : Bytes} (h : 1 ≤ key.length) {t u : Nat} (htu : t ≤ u) :
    stretch P key t = (stretch P key u).take t := by
  have hrounds : ceilDiv t key.length ≤ ceilDiv u key.length := Nat.div_le_div_right (by omega)
  obtain ⟨rest, hrest⟩ := partsFrom_append P hrounds key
  rw [stretch, stretch, List.take_take, min_eq_left htu, hrest,
    List.take_append_of_le_length (by rw [partsFrom_length]; exact le_ceilDiv_mul t h)]

/-- Settles O13: each law of stretch is a law of its rounds (`partsFrom_eq_flatMap`) cut to the target. -/
theorem stretchRoundsLengthAndPrefix : Obligations.StretchRoundsLengthAndPrefix :=
  fun P _ h => ⟨fun _ => rfl, fun n => stretch_mul_length P n h, stretch_length P h, fun _ _ => stretch_take P h,
    List.take_zero⟩

end Stretch

/-! ### generate (spec/41_permgen.md R140 to R143) -/

/-- What stands where after an exchange. -/
theorem entry_swapAt {t : Bytes} {i j : Nat} (hi : i < t.length) (hj : j < t.length) (k : Nat) :
    entry (swapAt t i j) k = if k = j then entry t i else if k = i then entry t j else entry t k := by
  simp only [entry, swapAt, List.getD_eq_getElem?_getD, List.getElem?_set, List.length_set, eq_comm (a := j), eq_comm (a := i)]
  by_cases hkj : k = j
  · simp [hkj, hj]
  · by_cases hki : k = i
    · subst hki
      simp [hkj, hi, hj]
    · simp [hkj, hki]

section Shuffle

variable (P : Params)

/-- A draw below `i + 2` is a place of the table. -/
theorem below_lt_length (g : P.G) {i n : Nat} (h : i + 1 < n) : (P.below g (i + 2)).1 < n :=
  (P.below_lt g (i + 2) (by omega)).trans_le h

theorem shuffleFrom_perm (i : Nat) {t : Bytes} (g : P.G) (h : i < t.length) : (shuffleFrom P i t g).1.Perm t := by
  induction i generalizing t g with
  | zero => exact .refl t
  | succ i ih =>
    rw [shuffleFrom_succ]
    exact (ih _ (by rw [swapAt_length]; omega)).trans (swapAt_perm h (below_lt_length P g h))

/-- The walk below `i` does not come back to a place above it. -/
theorem entry_shuffleFrom_of_lt {i k : Nat} {t : Bytes} (g : P.G) (ht : i < t.length) (h : i < k) :
    entry (shuffleFrom P i t g).1 k = entry t k := by
  induction i generalizing t g with
  | zero => rfl
  | succ i ih =>
    have hdraw : (P.below g (i + 2)).1 < i + 2 := P.below_lt g _ (by omega)
    rw [shuffleFrom_succ, ih _ (by rw [swapAt_length]; omega) (by omega), entry_swapAt ht (by omega),
      if_neg (by omega), if_neg (by omega)]

/-- Where the walk starts, the drawn entry stays. -/
theorem entry_shuffleFrom_self {i : Nat} {t : Bytes} (g : P.G) (ht : i + 1 < t.length) :
    entry (shuffleFrom P (i + 1) t g).1 (i + 1) = entry t (P.below g (i + 2)).1 := by
  have hdraw : (P.below g (i + 2)).1 < t.length := below_lt_length P g ht
  rw [shuffleFrom_succ, entry_shuffleFrom_of_lt P _ (by rw [swapAt_length]; omega) (by omega), entry_swapAt ht hdraw]
  split
  · congr 1
  · rw [if_pos rfl]

/-- The walk is the fold of the exchanges (R141). -/
theorem shuffleFrom_eq_foldl (i : Nat) (t : Bytes) (g : P.G) :
    shuffleFrom P i t g = ((List.range i).map (i - ·)).foldl (exchange P) (t, g) := by
  induction i generalizing t g with
  | zero => rfl
  | succ i ih =>
    have hwalk : (List.range (i + 1)).map (i + 1 - ·) = (i + 1) :: (List.range i).map (i - ·) := by
      simp [List.range_succ_eq_map, Function.comp_def]
    rw [shuffleFrom_succ, ih, hwalk, List.foldl_cons]
    rfl

end Shuffle

theorem mem_identityTable (v : Byte) : v ∈ identityTable :=
  List.mem_map.2 ⟨v.toNat, List.mem_range.2 v.isLt, by simp⟩

theorem identityTable_nodup : identityTable.Nodup := by
  refine List.Nodup.map_on (fun x hx y hy hxy => ?_) List.nodup_range
  have hx : x < 256 := List.mem_range.1 hx
  have hy : y < 256 := List.mem_range.1 hy
  have hval := congrArg BitVec.toNat hxy
  simp only [BitVec.toNat_ofNat] at hval
  omega

theorem generate_perm (P : Params) (seedKey : Bytes) : (generate P seedKey).1.Perm identityTable := by
  rw [generate_fst]
  exact shuffleFrom_perm P 255 _ (by simp)

theorem entry_inverseTable (t : Bytes) (v : Byte) : entry (inverseTable t) v.toNat = BitVec.ofNat 8 (t.idxOf v) := by
  have hv : v.toNat < alphabet := v.isLt
  simp [entry, inverseTable, List.getD_eq_getElem?_getD, hv]

/-- A rearrangement of the byte alphabet and the places of its values are inverse bijections (R142). -/
theorem tablesInverse_inverseTable {t : Bytes} (h : t.Perm identityTable) : TablesInverse t (inverseTable t) := by
  have hlen : t.length = 256 := h.length_eq.trans identityTable_length
  have hnodup : t.Nodup := h.nodup_iff.2 identityTable_nodup
  have hplace (v : Byte) : t.idxOf v < 256 := hlen ▸ List.idxOf_lt_length_iff.2 (h.mem_iff.2 (mem_identityTable v))
  refine ⟨hlen, inverseTable_length t, hnodup, fun v => ?valueAtPlace, fun i => ?placeOfValue⟩
  case valueAtPlace =>
    have hv : t.idxOf v < t.length := hlen ▸ hplace v
    rw [entry_inverseTable, BitVec.toNat_ofNat, Nat.mod_eq_of_lt (hplace v), entry, List.getD_eq_getElem _ _ hv,
      List.getElem_idxOf]
  case placeOfValue =>
    have hi : i.toNat < t.length := hlen ▸ i.isLt
    rw [entry_inverseTable, entry, List.getD_eq_getElem _ _ hi, hnodup.idxOf_getElem]
    simp

/-- Settles O14: `generate` rearranges the identity, and its second table has the places of the first. -/
theorem generateGivesInverseBijections : Obligations.GenerateGivesInverseBijections := by
  intro P seedKey
  rw [generate_snd]
  exact tablesInverse_inverseTable (generate_perm P seedKey)

/-- Settles O15: the walk is the fold of its exchanges, and the entry a draw picks stays where the walk has been. -/
theorem shuffleWalksDownward : Obligations.ShuffleWalksDownward := by
  intro P seedKey
  have hid : (255 : Nat) < identityTable.length := by simp
  rw [generate_fst]
  refine ⟨congrArg Prod.fst (shuffleFrom_eq_foldl P 255 _ _), ?first, ?second⟩
  case first =>
    have hdraw : (P.below (P.seed (P.hash512 seedKey)) 256).1 < 256 := P.below_lt _ _ (by omega)
    exact (entry_shuffleFrom_self P _ hid).trans (entry_identityTable hdraw)
  case second =>
    set g := P.seed (P.hash512 seedKey)
    have hfirst : (P.below g 256).1 < 256 := P.below_lt _ _ (by omega)
    have hsecond : (P.below (P.below g 256).2 255).1 < 255 := P.below_lt _ _ (by omega)
    have hpick : entry (shuffleFrom P 255 identityTable g).1 254 =
        entry (swapAt identityTable 255 (P.below g 256).1) (P.below (P.below g 256).2 255).1 := by
      rw [shuffleFrom_succ P 254]
      exact entry_shuffleFrom_self P (P.below g 256).2 (by simp)
    rw [entry_swapAt hid (by simpa using hfirst), if_neg hsecond.ne, entry_identityTable (by omega),
      entry_identityTable (by omega)] at hpick
    exact hpick

end Sys2Proof.Machine

namespace Sys2Proof.Machine

section

variable (P : Params)

/-! ### Whole messages (spec/42_blocktransform.md R166 to R168) -/

theorem generate_inverse (seedKey : Bytes) : TablesInverse (generate P seedKey).1 (generate P seedKey).2 :=
  generateGivesInverseBijections P seedKey

/-- The block guarantee under the tables of any seed. -/
theorem decodeBlock_encodeBlock_generate {b k : Bytes} (h : b.length ≤ k.length) (seedKey : Bytes) :
    decodeBlock (encodeBlock b k (generate P seedKey).1) k (generate P seedKey).2 = b := by
  obtain ⟨-, -, -, -, hqp⟩ := generate_inverse P seedKey
  exact decodeBlock_encodeBlock h hqp

theorem encodeMsg_length (m : Bytes) {key : Bytes} (h : 1 ≤ key.length) (c : Bool) :
    (encodeMsg P m key c).length = (packed P c m).length := by
  simp [encodeMsg, stretch_length P h]

theorem unpacked_packed (c : Bool) (m : Bytes) : unpacked P c (packed P c m) = some m := by
  cases c
  · rfl
  · exact P.lossless m

theorem decodeMsg_encodeMsg (m : Bytes) {key : Bytes} (h : 1 ≤ key.length) (c : Bool) :
    decodeMsg P (encodeMsg P m key c) key c = some m := by
  have hlen := encodeMsg_length P m h c
  have hkey : (packed P c m).length ≤ (stretch P key (packed P c m).length).length := by rw [stretch_length P h]
  rw [decodeMsg, hlen, encodeMsg, decodeBlock_encodeBlock_generate P hkey, unpacked_packed]

/-! ### The key chain (spec/43_streampipeline.md R201) -/

theorem keyTail_length {bk : Bytes} (h : bk.length = 8192) (n : Nat) : (keyTail bk n).length = min n 8192 := by
  rw [keyTail, lastBytes, List.length_drop, h, blockSize, Nat.sub_sub_self (Nat.min_le_right _ _)]

theorem keyTail_eq_drop {bk : Bytes} (h : bk.length = 8192) (n : Nat) : keyTail bk n = bk.drop (8192 - min n 8192) := by
  rw [keyTail, lastBytes, h, blockSize]

theorem chainKey_length_pos {key : Bytes} (h : 1 ≤ key.length) (i : Nat) : 1 ≤ (chainKey P key i).length := by
  induction i with
  | zero => exact h
  | succ i ih =>
    have hbk : (blockKeyOf P key i).length = 8192 := stretch_length P ih _
    rw [chainKey_succ, keyTail_length hbk]
    omega

theorem blockKeyOf_length {key : Bytes} (h : 1 ≤ key.length) (i : Nat) : (blockKeyOf P key i).length = 8192 :=
  stretch_length P (chainKey_length_pos P h i) _

/-! ### The stream functions (spec/43_streampipeline.md R204, R215) -/

theorem streamEncBlock_length (s : Bytes) {key : Bytes} (h : 1 ≤ key.length) (i : Nat) :
    (streamEncBlock P s key i).length = min 8192 (s.length - 8192 * i) := by
  rw [streamEncBlock, encodeBlock_length, blockOf_length, blockKeyOf_length P h]
  omega

theorem streamDecBlock_length (s : Bytes) {key : Bytes} (h : 1 ≤ key.length) (i : Nat) :
    (streamDecBlock P s key i).length = min 8192 (s.length - 8192 * i) := by
  rw [streamDecBlock, decodeBlock_length, blockOf_length, blockKeyOf_length P h]
  omega

/-- Blocks of the lengths of a sequence's blocks make a sequence of its length. -/
theorem flatMap_totalBlocks_length (f : Nat → Bytes) (len : Nat) (hf : ∀ i, (f i).length = min 8192 (len - 8192 * i)) :
    ((List.range (totalBlocks len)).flatMap f).length = len := by
  rw [flatMap_blocks_length f len hf, min_eq_left (le_mul_totalBlocks len)]

theorem flatMap_totalBlocks_getD (f : Nat → Bytes) (len : Nat) (hf : ∀ i, (f i).length = min 8192 (len - 8192 * i)) {j : Nat}
    (hj : j < len) : ((List.range (totalBlocks len)).flatMap f).getD j 0 = (f (j / 8192)).getD (j % 8192) 0 :=
  flatMap_blocks_getD f len hf _ j (by rw [min_eq_left (le_mul_totalBlocks len)]; exact hj)

theorem ext_getD {a b : Bytes} (hlen : a.length = b.length) (h : ∀ j, j < b.length → a.getD j 0 = b.getD j 0) : a = b :=
  List.ext_getElem hlen fun j ha hb => by
    rw [← List.getD_eq_getElem a 0 ha, ← List.getD_eq_getElem b 0 hb, h j hb]

/-- Block `i` of blocks put together is the block put at `i`. -/
theorem blockOf_flatMap (f : Nat → Bytes) (len : Nat) (hf : ∀ i, (f i).length = min 8192 (len - 8192 * i)) (i : Nat) :
    blockOf ((List.range (totalBlocks len)).flatMap f) i = f i := by
  have hlen := flatMap_totalBlocks_length f len hf
  refine ext_getD (by rw [blockOf_length, hlen, hf]) fun j hj => ?_
  have hbound : j < min 8192 (len - 8192 * i) := hf i ▸ hj
  rw [blockOf_getD _ _ (by omega), flatMap_totalBlocks_getD f len hf (by omega), show (8192 * i + j) / 8192 = i by omega,
    show (8192 * i + j) % 8192 = j by omega]

theorem streamEncBytes_length (s : Bytes) {key : Bytes} (h : 1 ≤ key.length) : (streamEncBytes P s key).length = s.length :=
  flatMap_totalBlocks_length _ _ (streamEncBlock_length P s h)

theorem streamDecBytes_length (s : Bytes) {key : Bytes} (h : 1 ≤ key.length) : (streamDecBytes P s key).length = s.length :=
  flatMap_totalBlocks_length _ _ (streamDecBlock_length P s h)

theorem blockOf_getD_mod (s : Bytes) (j : Nat) : (blockOf s (j / 8192)).getD (j % 8192) 0 = s.getD j 0 := by
  rw [blockOf_getD _ _ (Nat.mod_lt _ (by omega)), Nat.div_add_mod]

/-- Inside its block, a position has a byte and a key byte. -/
theorem mod_lt_block {key : Bytes} (h : 1 ≤ key.length) {s : Bytes} {j : Nat} (hj : j < s.length) :
    j % 8192 < (blockOf s (j / 8192)).length ∧ j % 8192 < (blockKeyOf P key (j / 8192)).length := by
  rw [blockOf_length, blockKeyOf_length P h]
  omega

theorem streamEncBytes_getD {s key : Bytes} (h : 1 ≤ key.length) {j : Nat} (hj : j < s.length) :
    (streamEncBytes P s key).getD j 0 =
      encodeByte (s.getD j 0) ((blockKeyOf P key (j / 8192)).getD (j % 8192) 0) (generate P (blockKeyOf P key (j / 8192))).1 := by
  obtain ⟨hb, hk⟩ := mod_lt_block P h hj
  rw [streamEncBytes, flatMap_totalBlocks_getD _ _ (streamEncBlock_length P s h) hj, streamEncBlock,
    encodeBlock_getD _ hb hk, blockOf_getD_mod]

theorem streamDecBytes_getD {s key : Bytes} (h : 1 ≤ key.length) {j : Nat} (hj : j < s.length) :
    (streamDecBytes P s key).getD j 0 =
      decodeByte (s.getD j 0) ((blockKeyOf P key (j / 8192)).getD (j % 8192) 0) (generate P (blockKeyOf P key (j / 8192))).2 := by
  obtain ⟨hb, hk⟩ := mod_lt_block P h hj
  rw [streamDecBytes, flatMap_totalBlocks_getD _ _ (streamDecBlock_length P s h) hj, streamDecBlock,
    decodeBlock_getD _ hb hk, blockOf_getD_mod]

theorem streamDecBlock_streamEncBytes (s : Bytes) {key : Bytes} (h : 1 ≤ key.length) (i : Nat) :
    streamDecBlock P (streamEncBytes P s key) key i = blockOf s i := by
  have hkey : (blockOf s i).length ≤ (blockKeyOf P key i).length := by
    rw [blockOf_length, blockKeyOf_length P h]
    omega
  rw [streamDecBlock, streamEncBytes, blockOf_flatMap _ _ (streamEncBlock_length P s h), streamEncBlock,
    decodeBlock_encodeBlock_generate P hkey]

theorem streamDecBytes_streamEncBytes (s : Bytes) {key : Bytes} (h : 1 ≤ key.length) :
    streamDecBytes P (streamEncBytes P s key) key = s := by
  have hblocks : streamDecBlock P (streamEncBytes P s key) key = blockOf s :=
    funext (streamDecBlock_streamEncBytes P s h)
  rw [streamDecBytes, hblocks, streamEncBytes_length P s h, flatMap_range_blockOf,
    List.take_of_length_le (le_mul_totalBlocks _)]

theorem streamEncBytes_take (s : Bytes) {key : Bytes} (h : 1 ≤ key.length) (n : Nat) :
    streamEncBytes P (s.take n) key = (streamEncBytes P s key).take n := by
  have hlen : (streamEncBytes P (s.take n) key).length = ((streamEncBytes P s key).take n).length := by
    rw [streamEncBytes_length P _ h, List.length_take, List.length_take, streamEncBytes_length P s h]
  refine ext_getD hlen fun j hj => ?_
  rw [List.length_take, streamEncBytes_length P s h, lt_min_iff] at hj
  obtain ⟨hn, hs⟩ := hj
  have take_getD (l : Bytes) : (l.take n).getD j 0 = l.getD j 0 := by
    simp [List.getD_eq_getElem?_getD, hn]
  rw [take_getD, streamEncBytes_getD P h (by simpa using ⟨hn, hs⟩), streamEncBytes_getD P h hs, take_getD]

end

/-- Settles O16: the decoder stretches the key to the same length, so it undoes the block transform and then the packing. -/
theorem messageRoundTrip : Obligations.MessageRoundTrip := by
  intro P m key c h
  refine ⟨decodeMsg_encodeMsg P m h c, (encodeMsg_length P m h c).trans ?_⟩
  cases c <;> rfl

/-- Settles O18: a chain key is never empty, so `stretch` meets its length. -/
theorem keyChainLengths : Obligations.KeyChainLengths := by
  intro P key h i
  have hlen := blockKeyOf_length P h i
  refine ⟨hlen, rfl, ?_, ?_⟩ <;> rw [chainKey_succ]
  · exact keyTail_eq_drop hlen _
  · exact keyTail_length hlen _

/-- Settles O19: byte `j` stands at place `j % 8192` of block `j / 8192`. -/
theorem streamBytesByPosition : Obligations.StreamBytesByPosition := by
  intro P s key h
  refine ⟨streamEncBytes_length P s h, streamDecBytes_length P s h, fun j hj => ⟨?_, streamDecBytes_getD P h hj⟩⟩
  exact (streamEncBytes_getD P h hj).trans (encodeByte_eq_getD _ _ _)

/-- Settles O20: block by block the decoder undoes the encoder (`streamDecBlock_streamEncBytes`). -/
theorem streamRoundTrip : Obligations.StreamRoundTrip := fun P s _ h => streamDecBytes_streamEncBytes P s h

/-- Settles O21: a byte of the ciphertext depends on its own byte and its position alone. -/
theorem streamPrefixLocality : Obligations.StreamPrefixLocality := fun P s _ n h => streamEncBytes_take P s h n

/-! ### The cadence of records (spec/43_streampipeline.md R203 to R207) -/

theorem interval_eq_div {t : Nat} (h : 20 ≤ t) : interval t = t / 20 := by
  rw [interval_eq, max_eq_right (Nat.div_pos h (by omega))]

/-- Settles O22: the interval is a twentieth of the block count, and at least 1. -/
theorem intervalValues : Obligations.IntervalValues := by
  refine ⟨fun t h => ?_, fun t h1 h2 => ?_, fun t => interval_eq_div⟩
  · rw [interval_eq]
    omega
  · rw [interval_eq_div (by omega)]
    omega

/-- Of `t` numbers from 0, every `k`-th is a multiple of `k`. -/
theorem length_filter_recordDue (t : Nat) {k : Nat} (hk : 1 ≤ k) :
    ((List.range t).filter (fun i => recordDue i k)).length = ceilDiv t k := by
  induction t with
  | zero => simp [ceilDiv, Nat.div_eq_of_lt (show k - 1 < k by omega)]
  | succ t ih =>
    have hdue : k ∣ t + k - 1 + 1 ↔ recordDue t k = true := by
      rw [show t + k - 1 + 1 = t + k by omega, Nat.dvd_add_self_right, Nat.dvd_iff_mod_eq_zero, recordDue, beq_iff_eq]
    have hstep : ceilDiv (t + 1) k = ceilDiv t k + if recordDue t k = true then 1 else 0 := by
      rw [ceilDiv, show t + 1 + k - 1 = t + k - 1 + 1 by omega, Nat.succ_div]
      simp only [hdue, ceilDiv]
    rw [List.range_succ, List.filter_append, List.length_append, ih, hstep]
    cases h : recordDue t k <;> simp [h]

theorem streamRecords_length (t : Nat) : (streamRecords t).length = ceilDiv t (interval t) + 1 := by
  simp [streamRecords, length_filter_recordDue t (interval_pos t)]

/-- From 20 blocks up, 20 to 39 records are periodic. -/
theorem ceilDiv_interval_bounds {t : Nat} (h : 20 ≤ t) : 20 ≤ ceilDiv t (interval t) ∧ ceilDiv t (interval t) < 40 := by
  have hpos := interval_pos t
  have hq := interval_eq_div h
  rw [ceilDiv, Nat.le_div_iff_mul_le hpos, Nat.div_lt_iff_lt_mul hpos]
  omega

/-- Settles O23: the periodic records are counted by `length_filter_recordDue`, the final one follows them. -/
theorem recordCount : Obligations.RecordCount := by
  intro t
  refine ⟨streamRecords_length t, fun h => ?few, fun h => ?many, by simp [streamRecords, finalRecord]⟩
  case few => rw [streamRecords_length, intervalValues.1 t h, ceilDiv, Nat.add_sub_cancel, Nat.div_one]
  case many =>
    obtain ⟨hlow, hhigh⟩ := ceilDiv_interval_bounds h
    rw [streamRecords_length]
    omega

end Sys2Proof.Machine

namespace Sys2Proof.Machine

/-! ### A command's meaning under any instantiation -/

theorem exec_eq_commandUnder (i : Instr) (s : State) : exec i s = .next (commandUnder Config.params i s) := by
  cases i <;> rfl

theorem commandUnder_eq (P : Params) (i : Instr) (s : State) :
    commandUnder P i s = command (checksOf P i s) (busyWriteOf i) (ownStep P i) s := by
  cases i <;> rfl

theorem commandUnder_turn (P : Params) (i : Instr) {s : State} (hport : s.cmdPort = none) (hbusy : s.status.busy = true) :
    commandUnder P i s = ownStep P i s := by
  simp [commandUnder_eq, command, hport, hbusy]

/-- The model's count of the input bytes is the rules' one. -/
theorem inNeed_eq_stepTakes (i : Instr) (s : State) : inNeed i s = stepTakes i s := by
  cases i with
  | senc c => cases c <;> cases h : s.started <;> simp [inNeed, stepTakes, State.blockLen, blockSize, h]
  | sdec c => cases h : s.started <;> simp [inNeed, stepTakes, State.blockLen, blockSize, h]
  | stretch | genperm | encb | decb | encblk | decblk | encode | decode | abort => rfl

section Turn

variable {P : Params} {i : Instr} {s : State}

/-- Between steps and without an abort to take, SENC and SDEC move as every command does. -/
theorem ownStep_atStep (ha : isStream i = true → s.status.abortreq = false) :
    ownStep P i s = engineStep P (inNeed i s) (bodyOf P i) s := by
  cases hs : isStream i
  · simp [ownStep, hs]
  · simp [ownStep, hs, streamStep, ha hs]

theorem commandUnder_atStep (h : s.atStep) (hn : stepTakes i s ≤ s.inQ.length)
    (ha : isStream i = true → s.status.abortreq = false) :
    commandUnder P i s = if (bodyOf P i s).hasSpace P then (bodyOf P i s).drain P else s := by
  rw [commandUnder_turn P i h.1 h.2.1, ownStep_atStep ha, inNeed_eq_stepTakes, engineStep_atStep h hn]

/-- A step that lacks input is no step (20_memory.md R70). -/
theorem commandUnder_short (h : s.atStep) (hn : s.inQ.length < stepTakes i s)
    (ha : isStream i = true → s.status.abortreq = false) : commandUnder P i s = s := by
  rw [commandUnder_turn P i h.1 h.2.1, ownStep_atStep ha, inNeed_eq_stepTakes, engineStep, State.pushing_atStep h]
  simp [hn]

/-- The abort step goes before every other step of SENC and SDEC (44_control.md R243 c). -/
theorem commandUnder_abort (hs : isStream i = true) (h : s.atStep) (ha : s.status.abortreq = true) :
    commandUnder P i s = s.abortStep := by
  simp [commandUnder_turn P i h.1 h.2.1, ownStep, hs, streamStep, State.pushing_atStep h, ha]

/-! ### What a step pushes -/

/-! The three stages of a stream command (43_streampipeline.md R210 to R214) -/

theorem bodyOf_senc_start (c : Bool) (h : s.started = false) : bodyOf P (.senc c) s = sencStart P c s := by
  simp [bodyOf, sencBody, h]

theorem bodyOf_senc_block (c : Bool) (h : s.started = true) (hb : s.bidx < s.totb) :
    bodyOf P (.senc c) s = sencBlock P c s := by
  simp [bodyOf, sencBody, h, hb]

theorem bodyOf_senc_final (c : Bool) (h : s.started = true) (hb : ¬ s.bidx < s.totb) :
    bodyOf P (.senc c) s = sencFinal s := by
  simp [bodyOf, sencBody, h, hb]

theorem bodyOf_sdec_start (c : Bool) (h : s.started = false) : bodyOf P (.sdec c) s = sdecStart s := by
  simp [bodyOf, sdecBody, h]

theorem bodyOf_sdec_block (c : Bool) (h : s.started = true) (hb : s.bidx < s.totb) :
    bodyOf P (.sdec c) s = sdecBlock P c s := by
  simp [bodyOf, sdecBody, h, hb]

theorem bodyOf_sdec_final (c : Bool) (h : s.started = true) (hb : ¬ s.bidx < s.totb) :
    bodyOf P (.sdec c) s = sdecFinal P c s := by
  simp [bodyOf, sdecBody, h, hb]

/-- The stages by cases, for a proof that looks at each. -/
theorem stage_cases (s : State) :
    s.started = false ∨ (s.started = true ∧ s.bidx < s.totb) ∨ (s.started = true ∧ ¬ s.bidx < s.totb) := by
  cases s.started <;> simp [Nat.lt_or_ge]

/-! The pushes of each body (40_keystretcher.md R124, 42_blocktransform.md R171 to R174, 43_streampipeline.md R210 to R214) -/

@[simp] theorem pushedBytes_nil : pushedBytes [] = [] := rfl
@[simp] theorem pushedRecords_nil : pushedRecords [] = [] := rfl
@[simp] theorem pushedBytes_record (r : Progress) (ps : List Push) : pushedBytes (.record r :: ps) = pushedBytes ps := rfl
@[simp] theorem pushedRecords_record (r : Progress) (ps : List Push) :
    pushedRecords (.record r :: ps) = r :: pushedRecords ps := rfl

/-- DECODE with its input there decodes as `decodeMsg` does. -/
theorem unpacked_decodeBody (c : Bool) (hn : s.mlen ≤ s.inQ.length) :
    unpacked P c (decodeBlock (s.inBytes s.mlen) (stretch P (s.keyBytes P) s.mlen)
        (generate P (stretch P (s.keyBytes P) s.mlen)).2) =
      decodeMsg P (s.inQ.take s.mlen) (s.keyBytes P) c := by
  rw [decodeMsg, List.length_take, min_eq_left hn, State.inBytes]

theorem decodeBody_of_some {c : Bool} (hn : s.mlen ≤ s.inQ.length) {p : Bytes}
    (hp : decodeMsg P (s.inQ.take s.mlen) (s.keyBytes P) c = some p) :
    decodeBody P c s =
      let u := (s.dropIn s.mlen).loadTables P (generate P (stretch P (s.keyBytes P) s.mlen))
      State.finish (State.emit (pushBytes p) { u with olen := p.length }) := by
  simp only [decodeBody, unpacked_decodeBody c hn, hp]

theorem decodeBody_of_none {c : Bool} (hn : s.mlen ≤ s.inQ.length)
    (hp : decodeMsg P (s.inQ.take s.mlen) (s.keyBytes P) c = none) :
    decodeBody P c s =
      ((s.dropIn s.mlen).loadTables P (generate P (stretch P (s.keyBytes P) s.mlen))).raise .decodeFailed := by
  simp only [decodeBody, unpacked_decodeBody c hn, hp]

theorem decodeBody_pushes (c : Bool) (hp : s.pend = []) (hn : s.mlen ≤ s.inQ.length) :
    pushedBytes (decodeBody P c s).pend = (decodeMsg P (s.inQ.take s.mlen) (s.keyBytes P) c).getD [] ∧
      pushedRecords (decodeBody P c s).pend = [] := by
  cases hm : decodeMsg P (s.inQ.take s.mlen) (s.keyBytes P) c with
  | some p => rw [decodeBody_of_some hn hm]; simp [hp]
  | none => rw [decodeBody_of_none hn hm]; simp

theorem sencBody_pushes (c : Bool) (hp : s.pend = []) :
    pushedBytes (bodyOf P (.senc c) s).pend = stepBytes P (.senc c) s ∧
      pushedRecords (bodyOf P (.senc c) s).pend = stepRecords P (.senc c) s := by
  rcases stage_cases s with h | ⟨h, hb⟩ | ⟨h, hb⟩
  · rw [bodyOf_senc_start c h]
    cases c <;> simp [sencStart, stepBytes, stepRecords, h, hp]
  · rw [bodyOf_senc_block c h hb]
    cases c <;>
      simp [sencBlock, stepBytes, stepRecords, isStream, h, hb, hp, State.dueRecords_eq, State.blockLen, State.inBytes, blockSize]
  · rw [bodyOf_senc_final c h hb]
    simp [sencFinal, stepBytes, stepRecords, isStream, finalRecord, h, hb, hp]

theorem sdecBody_pushes (c : Bool) (hp : s.pend = []) :
    pushedBytes (bodyOf P (.sdec c) s).pend = stepBytes P (.sdec c) s ∧
      pushedRecords (bodyOf P (.sdec c) s).pend = stepRecords P (.sdec c) s := by
  rcases stage_cases s with h | ⟨h, hb⟩ | ⟨h, hb⟩
  · rw [bodyOf_sdec_start c h]
    simp [sdecStart, stepBytes, stepRecords, h, hp]
  · rw [bodyOf_sdec_block c h hb]
    cases c <;>
      simp [sdecBlock, stepBytes, stepRecords, isStream, h, hb, hp, State.dueRecords_eq, State.blockLen, State.inBytes, blockSize]
  · rw [bodyOf_sdec_final c h hb]
    cases c
    · simp [sdecFinal, stepBytes, stepRecords, isStream, finalRecord, h, hb, hp]
    · cases hz : P.decompress s.zbuf <;> simp [sdecFinal, stepBytes, stepRecords, isStream, finalRecord, h, hb, hp, hz]

/-- A body's pushes are the bytes and the records that the rules give the step. -/
theorem bodyOf_pushes (hp : s.pend = []) (hn : stepTakes i s ≤ s.inQ.length) :
    pushedBytes (bodyOf P i s).pend = stepBytes P i s ∧ pushedRecords (bodyOf P i s).pend = stepRecords P i s := by
  have hnone (hi : isStream i = false) : stepRecords P i s = [] := by simp [stepRecords, hi]
  cases i with
  | stretch sel => rw [hnone rfl]; cases sel <;> simp [bodyOf, stretchBody, stepBytes, hp]
  | genperm sel => rw [hnone rfl]; cases sel <;> simp [bodyOf, genpermBody, stepBytes, hp]
  | encb => rw [hnone rfl]; simp [bodyOf, encbBody, stepBytes, hp]
  | decb => rw [hnone rfl]; simp [bodyOf, decbBody, stepBytes, hp]
  | abort => rw [hnone rfl]; simp [bodyOf, abortBody, stepBytes, hp]
  | encblk => rw [hnone rfl]; simp [bodyOf, encblkBody, stepBytes, hp, State.inBytes]
  | decblk => rw [hnone rfl]; simp [bodyOf, decblkBody, stepBytes, hp, State.inBytes]
  | encode c => rw [hnone rfl]; simp [bodyOf, encodeBody, stepBytes, hp, State.inBytes, encodeMsg]
  | decode c => exact decodeBody_pushes c hp hn
  | senc c => exact sencBody_pushes c hp
  | sdec c => exact sdecBody_pushes c hp

/-! ### Which steps have their space, and what they leave -/

theorem bodyOf_queues (P : Params) (i : Instr) (s : State) :
    (bodyOf P i s).outQ = s.outQ ∧ (bodyOf P i s).evtQ = s.evtQ := by
  obtain ⟨-, -, -, -, -, -, -, -, hout, hevt⟩ := bodyOf_frame P i s
  exact ⟨hout, hevt⟩

theorem bodyOf_hasSpace_iff (hp : s.pend = []) (hn : stepTakes i s ≤ s.inQ.length) :
    (bodyOf P i s).hasSpace P = true ↔ streamsOpen P s (stepBytes P i s) (stepRecords P i s) := by
  obtain ⟨hbytes, hrecords⟩ := bodyOf_pushes (P := P) hp hn
  obtain ⟨hout, hevt⟩ := bodyOf_queues P i s
  rw [State.hasSpace_iff, hbytes, hrecords, hout, hevt, streamsOpen]

/-- With its input and no abort to take, a step is its body and the drain of its pushes as long as its streams are open. -/
theorem commandUnder_open (h : s.atStep) (hn : stepTakes i s ≤ s.inQ.length)
    (ha : isStream i = true → s.status.abortreq = false) (ho : streamsOpen P s (stepBytes P i s) (stepRecords P i s)) :
    commandUnder P i s = (bodyOf P i s).drain P := by
  obtain ⟨-, -, hp, -⟩ := id h
  rw [commandUnder_atStep h hn ha, if_pos ((bodyOf_hasSpace_iff hp hn).2 ho)]

/-- With a stream full, it is no step (00_scope.md R16). -/
theorem commandUnder_full (h : s.atStep) (hn : stepTakes i s ≤ s.inQ.length)
    (ha : isStream i = true → s.status.abortreq = false) (ho : ¬ streamsOpen P s (stepBytes P i s) (stepRecords P i s)) :
    commandUnder P i s = s := by
  obtain ⟨-, -, hp, -⟩ := id h
  rw [commandUnder_atStep h hn ha, if_neg fun hs => ho ((bodyOf_hasSpace_iff hp hn).1 hs)]

end Turn

/-- A step that has made all its pushes, bytes `bs` and records `rs`; one that ends its command has completed it. -/
def State.settle (bs : Bytes) (rs : List Progress) (u : State) : State :=
  { u with outQ := u.outQ ++ bs, evtQ := u.evtQ ++ rs, pend := [], fin := false,
           started := if u.fin then false else u.started, status := if u.fin then doneStatus u.status else u.status }

/-- EVT takes these records. -/
def evtTakes (P : Params) (s : State) (rs : List Progress) : Prop := rs ≠ [] → fits (s.evtQ.length + rs.length) P.evtDepth

section Settle

variable {P : Params} {i : Instr} {s : State}

theorem outTakes_iff {n : Nat} : outTakes P s n ↔ (n ≠ 0 → fits (s.outQ.length + n) P.outDepth) := by
  rw [outTakes, or_iff_not_imp_left]

theorem drain_eq_settle {u : State} (ho : outTakes P u (pushedBytes u.pend).length)
    (he : evtTakes P u (pushedRecords u.pend)) : u.drain P = u.settle (pushedBytes u.pend) (pushedRecords u.pend) := by
  rw [outTakes_iff] at ho
  rw [State.drain_of_fits P u (fun hne => ho (by simpa using hne)) he, State.settle]
  cases u.fin <;> rfl

theorem streamsOpen_of_takes {bs : Bytes} {rs : List Progress} (ho : outTakes P s bs.length) (he : evtTakes P s rs) :
    streamsOpen P s bs rs := by
  rw [outTakes_iff] at ho
  refine ⟨fun hne => ?_, fun hne => ?_⟩
  · have hpos := List.length_pos_iff.2 hne
    exact fits_mono (ho (by omega)) (by omega)
  · have hpos := List.length_pos_iff.2 hne
    exact fits_mono (he hne) (by omega)

/-- With its input there, no abort to take and room for all it pushes, a step makes all its pushes at once. -/
theorem commandUnder_settle (h : s.atStep) (hn : stepTakes i s ≤ s.inQ.length)
    (ha : isStream i = true → s.status.abortreq = false) (ho : outTakes P s (stepBytes P i s).length)
    (he : evtTakes P s (stepRecords P i s)) :
    commandUnder P i s = (bodyOf P i s).settle (stepBytes P i s) (stepRecords P i s) := by
  obtain ⟨-, -, hp, -⟩ := id h
  obtain ⟨hbytes, hrecords⟩ := bodyOf_pushes (P := P) hp hn
  obtain ⟨hout, hevt⟩ := bodyOf_queues P i s
  rw [commandUnder_open h hn ha (streamsOpen_of_takes ho he), drain_eq_settle, hbytes, hrecords]
  · rwa [outTakes_iff, hbytes, hout, ← outTakes_iff]
  · rwa [evtTakes, hrecords, hevt]

/-- A command other than SENC and SDEC pushes no record. -/
theorem stepRecords_of_not_stream (hi : isStream i = false) : stepRecords P i s = [] := by
  simp [stepRecords, hi]

theorem commandUnder_settle_bytes (hi : isStream i = false) (h : s.atStep) (hn : stepTakes i s ≤ s.inQ.length)
    (ho : outTakes P s (stepBytes P i s).length) :
    commandUnder P i s = (bodyOf P i s).settle (stepBytes P i s) [] := by
  have hrecords : stepRecords P i s = [] := stepRecords_of_not_stream hi
  rw [commandUnder_settle h hn (fun hs => absurd hs (by simp [hi])) ho (fun hne => absurd hrecords hne), hrecords]

/-- Bytes that OUT does not take all, in a step that ends its command: those that fit go, the others wait. -/
theorem commandUnder_held (hi : isStream i = false) (h : s.atStep) (hn : stepTakes i s ≤ s.inQ.length)
    (hbody : (bodyOf P i s).pend = pushBytes (stepBytes P i s)) (hfin : (bodyOf P i s).fin = true)
    (ho : ¬ outTakes P s (stepBytes P i s).length) (hopen : fits (s.outQ.length + 1) P.outDepth) :
    commandUnder P i s = heldPushing P (stepBytes P i s) (bodyOf P i s) := by
  have hrecords : stepRecords P i s = [] := stepRecords_of_not_stream hi
  obtain ⟨hout, -⟩ := bodyOf_queues P i s
  obtain ⟨hne, d, hd, hlong⟩ : stepBytes P i s ≠ [] ∧
      ∃ d, P.outDepth = some d ∧ d < s.outQ.length + (stepBytes P i s).length := by
    simpa [outTakes, fits] using ho
  rw [commandUnder_open h hn (fun hs => absurd hs (by simp [hi])) ⟨fun _ => hopen, fun hr => absurd hrecords hr⟩,
    State.drain, hbody, drainPushes_bytes_held hd _ _ hne (by rwa [hout]), heldPushing, hd, ← hfin]
  rfl

end Settle

end Sys2Proof.Machine

namespace Sys2Proof.Machine

/-! ### Operands as the bytes of their buffers (spec/10_state.md R25, R27, R36, R37) -/

section Operands

variable (P : Params) (s : State)

theorem readBytes_buffer (sp : Space) (n : Nat) :
    (s.buffer sp).readBytes (s.fresh P sp) 0 n = (List.range n).map (s.byteAt P sp) := by
  rw [Memory.readBytes, List.range_eq_range']
  rfl

theorem keyBytes_eq_map : s.keyBytes P = (List.range s.klen).map (s.byteAt P .key) := readBytes_buffer P s .key s.klen

theorem blockKey_eq_map : s.blockKey P = (List.range s.bklen).map (s.byteAt P .bkey) := readBytes_buffer P s .bkey s.bklen

theorem permTable_eq_map : s.permTable P = (List.range 256).map (s.byteAt P .perm) := readBytes_buffer P s .perm 256

theorem ipermTable_eq_map : s.ipermTable P = (List.range 256).map (s.byteAt P .iperm) := readBytes_buffer P s .iperm 256

theorem entry_map_range (f : Nat → Byte) {n i : Nat} (h : i < n) : entry ((List.range n).map f) i = f i := by
  simp [entry, List.getD_eq_getElem?_getD, h]

theorem encb_value : encodeByte s.opData s.opKey (s.permTable P) =
    s.byteAt P .perm ((s.opb.toNat % 256 + s.opb.toNat / 256) % 256) := by
  rw [permTable_eq_map, encodeByte, BitVec.toNat_add, State.opData_toNat, State.opKey_toNat,
    entry_map_range _ (Nat.mod_lt _ (by omega))]

theorem decb_value : decodeByte s.opData s.opKey (s.ipermTable P) =
    s.byteAt P .iperm (s.opb.toNat % 256) - BitVec.ofNat 8 (s.opb.toNat / 256) := by
  rw [ipermTable_eq_map, decodeByte, State.opData_toNat, entry_map_range _ (Nat.mod_lt _ (by omega)), ← State.opKey_toNat,
    BitVec.ofNat_toNat, BitVec.setWidth_eq]

end Operands

/-! ### What a step writes into buffers -/

section Written

variable {P : Params} {s t : State}

/-- `MemWrite` from index 0 puts its bytes there and leaves the rest. -/
theorem writtenFrom_writeBytes {sp : Space} {bs : Bytes} (hr : t.resets = s.resets)
    (h : t.buffer sp = (s.buffer sp).writeBytes (s.fresh P sp) 0 bs) : writtenFrom P s t sp bs := by
  intro j
  have hfresh : t.fresh P sp = s.fresh P sp := by rw [State.fresh_eq, State.fresh_eq, hr]
  rw [State.byteAt, h, hfresh, Memory.read_writeBytes, Nat.zero_add, Nat.sub_zero]
  simp only [Nat.zero_le, true_and]
  rfl

theorem tablesFrom_writeBytes {seedKey : Bytes} (hr : t.resets = s.resets)
    (hp : t.perm = s.perm.writeBytes (s.fresh P .perm) 0 (generate P seedKey).1)
    (hi : t.iperm = s.iperm.writeBytes (s.fresh P .iperm) 0 (generate P seedKey).2) : tablesFrom P s t seedKey :=
  ⟨writtenFrom_writeBytes hr hp, writtenFrom_writeBytes hr hi⟩

end Written

/-! ### Commands of one step (spec/40_keystretcher.md R124, 41_permgen.md R145, 42_blocktransform.md R169 to R174) -/

section OneStep

variable {P : Params} {s : State}

theorem stretchOut_bytes_length (hk : 1 ≤ s.klen) : (stepBytes P (.stretch false) s).length = s.mlen :=
  stretch_length P (by rwa [State.keyBytes_length]) _

theorem encblk_bytes_length (hn : s.mlen ≤ s.inQ.length) (hk : s.mlen ≤ s.bklen) :
    (stepBytes P .encblk s).length = s.mlen := by
  simp only [stepBytes, encodeBlock_length, List.length_take, State.blockKey_length]
  omega

theorem decblk_bytes_length (hn : s.mlen ≤ s.inQ.length) (hk : s.mlen ≤ s.bklen) :
    (stepBytes P .decblk s).length = s.mlen := by
  simp only [stepBytes, decodeBlock_length, List.length_take, State.blockKey_length]
  omega

theorem encode_bytes_length (c : Bool) (hk : 1 ≤ s.klen) :
    (stepBytes P (.encode c) s).length = (packed P c (s.inQ.take s.mlen)).length :=
  encodeMsg_length P _ (by rwa [State.keyBytes_length]) c

end OneStep

/-- A step of a command other than SENC and SDEC, with its input and room for its bytes. -/
theorem exec_settle_bytes (i : Instr) {s : State} (hi : isStream i = false) (h : s.atStep) (hn : stepTakes i s ≤ s.inQ.length)
    (ho : outTakes Config.params s (stepBytes Config.params i s).length) :
    exec i s = .next ((bodyOf Config.params i s).settle (stepBytes Config.params i s) []) := by
  rw [exec_eq_commandUnder, commandUnder_settle_bytes hi h hn ho]

/-- Settles O24: the step's bytes are MLEN many, and they all go or as many as fit. -/
theorem stretchToOutCompletes : Obligations.StretchToOutCompletes := by
  refine ⟨fun s h hk ho => ?room, fun _ => rfl, fun P s h hk ho hopen => ?held⟩
  case room =>
    rw [← stretchOut_bytes_length hk] at ho
    rw [exec_settle_bytes (.stretch false) rfl h (Nat.zero_le _) ho]
    obtain ⟨-, -, hp, hf⟩ := h
    simp [State.settle, bodyOf, stretchBody, stepBytes, hp, hf]
  case held =>
    rw [← stretchOut_bytes_length hk] at ho
    obtain ⟨-, -, hp, -⟩ := id h
    exact commandUnder_held rfl h (Nat.zero_le _) (by simp [bodyOf, stretchBody, stepBytes, hp]) rfl ho hopen

/-- Settles O25: the step pushes nothing, and its bytes are written from index 0. -/
theorem stretchToBkeyCompletes : Obligations.StretchToBkeyCompletes := by
  intro s h hk
  refine ⟨_, exec_settle_bytes (.stretch true) rfl h (Nat.zero_le _) (.inl rfl), ?_,
    stretch_length _ (by rwa [State.keyBytes_length]) _, writtenFrom_writeBytes rfl rfl⟩
  obtain ⟨-, -, hp, hf⟩ := h
  simp [State.settle, bodyOf, stretchBody, stepBytes, hp, hf]

/-- Settles O26: the step pushes nothing, and both tables are written from index 0. -/
theorem genpermCompletes : Obligations.GenpermCompletes := by
  refine ⟨fun s h hn => ?fromIn, fun s h => ?fromBkey⟩
  case fromIn =>
    refine ⟨_, exec_settle_bytes (.genperm false) rfl h hn (.inl rfl), ?_,
      tablesFrom_writeBytes rfl rfl rfl⟩
    obtain ⟨-, -, hp, hf⟩ := h
    simp [State.settle, bodyOf, genpermBody, stepBytes, doneStatus, doneWithTables, Status.tablesValid, hp, hf]
  case fromBkey =>
    rw [← blockKey_eq_map]
    refine ⟨_, exec_settle_bytes (.genperm true) rfl h (Nat.zero_le _) (.inl rfl), ?_,
      tablesFrom_writeBytes rfl rfl rfl⟩
    obtain ⟨-, -, hp, hf⟩ := h
    simp [State.settle, bodyOf, genpermBody, stepBytes, doneStatus, doneWithTables, Status.tablesValid, hp, hf]

/-- Settles O27: the value written to RES is `encb_value` or `decb_value`. -/
theorem byteCommandsComplete : Obligations.ByteCommandsComplete := by
  intro s h
  obtain ⟨-, -, hp, hf⟩ := id h
  rw [← encb_value, ← decb_value]
  rw [exec_settle_bytes .encb rfl h (Nat.zero_le _) (.inl rfl), exec_settle_bytes .decb rfl h (Nat.zero_le _) (.inl rfl)]
  constructor
  · simp [State.settle, bodyOf, encbBody, stepBytes, hp, hf]
  · simp [State.settle, bodyOf, decbBody, stepBytes, hp, hf]

/-- Settles O28: a block's transform has MLEN bytes, and they all go or as many as fit. -/
theorem blockCommandsComplete : Obligations.BlockCommandsComplete := by
  refine ⟨fun s h hn hk ho => ?room, fun _ => ⟨rfl, rfl⟩, fun P s h hn hk ho hopen => ?held⟩
  case room =>
    obtain ⟨-, -, hp, hf⟩ := id h
    rw [← blockKey_eq_map, ← permTable_eq_map, ← ipermTable_eq_map]
    rw [exec_settle_bytes .encblk rfl h hn (by rwa [encblk_bytes_length hn hk]),
      exec_settle_bytes .decblk rfl h hn (by rwa [decblk_bytes_length hn hk])]
    constructor
    · simp [State.settle, bodyOf, encblkBody, stepBytes, hp, hf]
    · simp [State.settle, bodyOf, decblkBody, stepBytes, hp, hf]
  case held =>
    obtain ⟨-, -, hp, -⟩ := id h
    rw [← blockKey_eq_map, ← permTable_eq_map, ← ipermTable_eq_map]
    constructor
    · exact commandUnder_held (i := .encblk) rfl h hn (by simp [bodyOf, encblkBody, stepBytes, State.inBytes, hp]) rfl
        (by rwa [encblk_bytes_length hn hk]) hopen
    · exact commandUnder_held (i := .decblk) rfl h hn (by simp [bodyOf, decblkBody, stepBytes, State.inBytes, hp]) rfl
        (by rwa [decblk_bytes_length hn hk]) hopen

/-- Settles O29: the step's bytes are `encodeMsg`, and its tables those of the message-length key. -/
theorem encodeCompletes : Obligations.EncodeCompletes := by
  refine ⟨fun c s h hk hn ho => ?room, fun _ _ => rfl, fun P c s h hk hn ho hopen => ?held⟩
  case room =>
    refine ⟨_, exec_settle_bytes (.encode c) rfl h hn (by rwa [encode_bytes_length c hk]), ?_,
      tablesFrom_writeBytes rfl rfl rfl⟩
    obtain ⟨-, -, hp, hf⟩ := h
    simp [State.settle, bodyOf, encodeBody, stepBytes, doneStatus, doneWithTables, Status.tablesValid, State.inBytes, packed,
      hp, hf]
  case held =>
    obtain ⟨-, -, hp, -⟩ := id h
    have hheld := commandUnder_held (P := P) (i := .encode c) rfl h hn
      (by simp [bodyOf, encodeBody, stepBytes, encodeMsg, State.inBytes, hp]) rfl (by rwa [encode_bytes_length c hk]) hopen
    change encodeCommand P c s = _ at hheld
    rw [hheld]
    exact ⟨rfl, tablesFrom_writeBytes rfl rfl rfl⟩

end Sys2Proof.Machine

namespace Sys2Proof.Machine

/-! ### DECODE (spec/42_blocktransform.md R174) -/

/-- The tables that DECODE writes are those of the message-length key, whatever becomes of the message. -/
theorem decodeBody_writes (P : Params) (c : Bool) (s : State) :
    (decodeBody P c s).resets = s.resets ∧
      (decodeBody P c s).perm = s.perm.writeBytes (s.fresh P .perm) 0 (generate P (stretch P (s.keyBytes P) s.mlen)).1 ∧
      (decodeBody P c s).iperm = s.iperm.writeBytes (s.fresh P .iperm) 0 (generate P (stretch P (s.keyBytes P) s.mlen)).2 := by
  simp only [decodeBody]
  split <;> exact ⟨rfl, rfl, rfl⟩

section Decode

variable {P : Params} {c : Bool} {s : State}

theorem decode_bytes (o : Option Bytes) (ho : decodeMsg P (s.inQ.take s.mlen) (s.keyBytes P) c = o) :
    stepBytes P (.decode c) s = o.getD [] := by
  rw [← ho]
  rfl

end Decode

/-- Settles O30: the step's bytes are the decoded message, and its tables those of the message-length key. -/
theorem decodeCompletes : Obligations.DecodeCompletes := by
  refine ⟨fun c s p h hk hn hm ho => ?room, fun _ _ => rfl, fun P c s p h hk hn hm ho hopen => ?held⟩
  case room =>
    have hbytes : stepBytes Config.params (.decode c) s = p := decode_bytes _ hm
    obtain ⟨hr, hperm, hiperm⟩ := decodeBody_writes Config.params c s
    refine ⟨_, exec_settle_bytes (.decode c) rfl h hn (by rwa [hbytes]), ?_, tablesFrom_writeBytes hr hperm hiperm⟩
    obtain ⟨-, -, hp, hf⟩ := h
    rw [hbytes, bodyOf, decodeBody_of_some hn hm]
    simp [State.settle, doneStatus, doneWithTables, Status.tablesValid, hp, hf]
  case held =>
    have hbytes : stepBytes P (.decode c) s = p := decode_bytes _ hm
    obtain ⟨-, -, hp, -⟩ := id h
    have hbody : bodyOf P (.decode c) s = _ := decodeBody_of_some hn hm
    have hheld := commandUnder_held (P := P) (i := .decode c) rfl h hn (by rw [hbytes, hbody]; simp [hp]) (by rw [hbody]; rfl)
      (by rwa [hbytes]) hopen
    rw [hbytes, hbody] at hheld
    change decodeCommand P c s = _ at hheld
    rw [hheld]
    exact ⟨rfl, tablesFrom_writeBytes rfl rfl rfl⟩

/-- Settles O31: the step pushes nothing and its body is the error entry after the input and the tables. -/
theorem decodeFailedLeavesTablesAndNoOutput : Obligations.DecodeFailedLeavesTablesAndNoOutput := by
  refine ⟨fun _ => rfl, fun P s h hk hn hm => ?_⟩
  have hbytes : stepBytes P (.decode true) s = [] := decode_bytes _ hm
  have hstep := commandUnder_settle_bytes (P := P) (i := .decode true) rfl h hn (by rw [hbytes]; exact .inl rfl)
  rw [hbytes, bodyOf, decodeBody_of_none hn hm] at hstep
  change decodeCommand P true s = _ at hstep
  rw [hstep]
  refine ⟨?_, tablesFrom_writeBytes rfl rfl rfl⟩
  obtain ⟨-, -, hp, hf⟩ := h
  simp [State.settle, Status.failed, Status.tablesValid, hp, hf]

/-! ### ABORT and holds (spec/44_control.md R243, 20_memory.md R70, 00_scope.md R16) -/

/-- Settles O37: the one step of ABORT only completes. -/
theorem abortWhileIdleCompletes : Obligations.AbortWhileIdleCompletes := by
  intro s h
  rw [exec_settle_bytes .abort rfl h (Nat.zero_le _) (.inl rfl)]
  obtain ⟨-, -, hp, hf⟩ := h
  simp [State.settle, bodyOf, abortBody, stepBytes, hp, hf]

/-- Settles O38: the abort step is the first choice of a stream command (`commandUnder_abort`). -/
theorem requestedAbortEndsAStreamCommand : Obligations.RequestedAbortEndsAStreamCommand := by
  intro i s hi h ha
  rw [exec_eq_commandUnder, commandUnder_abort hi h ha]
  rfl

/-- Settles O39: what the model waits for is what the rules take (`inNeed_eq_stepTakes`). -/
theorem engineHoldsForInput : Obligations.EngineHoldsForInput := by
  intro i s h hn ha
  rw [exec_eq_commandUnder, commandUnder_short h hn ha]

/-- Settles O40: the body's pushes are the step's bytes and records (`bodyOf_pushes`), and the drain loses none. -/
theorem stepsNeedStreamSpace : Obligations.StepsNeedStreamSpace := by
  refine ⟨exec_eq_commandUnder, fun P i s h hn ha => ⟨commandUnder_full h hn ha, fun ho => ?_⟩⟩
  obtain ⟨-, -, hp, -⟩ := id h
  obtain ⟨hbytes, hrecords⟩ := bodyOf_pushes (P := P) hp hn
  obtain ⟨hout, hevt⟩ := bodyOf_queues P i s
  have hconserved := drainPushes_conserves P (bodyOf P i s).pend (bodyOf P i s)
  rw [hbytes, hrecords, hout, hevt] at hconserved
  rw [commandUnder_open h hn ha ho]
  exact hconserved

/-! ### Stream steps (spec/43_streampipeline.md R210 to R214) -/

/-- A step of SENC or SDEC with its input, no abort and room for its pushes. -/
theorem exec_settle (i : Instr) {s : State} (h : s.atStep) (ha : s.status.abortreq = false) (hn : stepTakes i s ≤ s.inQ.length)
    (ho : outTakes Config.params s (stepBytes Config.params i s).length)
    (he : evtTakes Config.params s (stepRecords Config.params i s)) :
    exec i s = .next ((bodyOf Config.params i s).settle (stepBytes Config.params i s) (stepRecords Config.params i s)) := by
  rw [exec_eq_commandUnder, commandUnder_settle h hn (fun _ => ha) ho he]

/-- As `exec_settle`, when its streams are only open. -/
theorem exec_open (i : Instr) {s : State} (h : s.atStep) (ha : s.status.abortreq = false) (hn : stepTakes i s ≤ s.inQ.length)
    (ho : streamsOpen Config.params s (stepBytes Config.params i s) (stepRecords Config.params i s)) :
    exec i s = .next ((bodyOf Config.params i s).drain Config.params) := by
  rw [exec_eq_commandUnder, commandUnder_open h hn (fun _ => ha) ho]

theorem stepRecords_start (P : Params) (i : Instr) {s : State} (hs : s.started = false) : stepRecords P i s = [] := by
  simp [stepRecords, hs]

/-- Settles O32: a start step pushes nothing, so it is its body. -/
theorem streamStartSteps : Obligations.StreamStartSteps := by
  refine ⟨fun s hp => ?value, fun s h hs ha => ⟨?senc, fun hn => ?sencPacked, fun c => ?sdec⟩⟩
  case value =>
    rw [State.chainValue, hp]
    exact keyBytes_eq_map _ s
  all_goals obtain ⟨-, -, hp, hf⟩ := id h
  case senc =>
    rw [exec_settle (.senc false) h ha (by simp [stepTakes, hs]) (by simp [stepBytes, hs, outTakes])
      (by simp [stepRecords_start _ _ hs, evtTakes]), bodyOf_senc_start _ hs, stepRecords_start _ _ hs]
    simp [State.settle, sencStart, stepBytes, State.streamStart, totalBlocks_eq, interval_eq, hs, hp, hf]
  case sencPacked =>
    rw [exec_settle (.senc true) h ha (by simpa [stepTakes, hs] using hn) (by simp [stepBytes, hs, outTakes])
      (by simp [stepRecords_start _ _ hs, evtTakes]), bodyOf_senc_start _ hs, stepRecords_start _ _ hs]
    simp [State.settle, sencStart, stepBytes, State.streamStart, totalBlocks_eq, interval_eq, State.inBytes, State.dropIn, hs,
      hp, hf]
  case sdec =>
    rw [exec_settle (.sdec c) h ha (by simp [stepTakes, hs]) (by simp [stepBytes, hs, outTakes])
      (by simp [stepRecords_start _ _ hs, evtTakes]), bodyOf_sdec_start _ hs, stepRecords_start _ _ hs]
    simp [State.settle, sdecStart, stepBytes, State.streamStart, totalBlocks_eq, interval_eq, hs, hp, hf]

end Sys2Proof.Machine

namespace Sys2Proof.Machine

section BlockStep

variable {P : Params} {c : Bool} {s : State}

/-! ### What a block step takes and pushes (spec/43_streampipeline.md R205, R211, R213) -/

theorem stepBytes_senc_block (hs : s.started = true) (hb : s.bidx < s.totb) :
    stepBytes P (.senc c) s =
      encodeBlock
        (if c = true then (s.zbuf.drop (8192 * s.bidx)).take (min 8192 (s.ltot - 8192 * s.bidx))
          else s.inQ.take (min 8192 (s.ltot - 8192 * s.bidx)))
        (stretch P (s.chainValue P) 8192) (generate P (stretch P (s.chainValue P) 8192)).1 := by
  simp [stepBytes, hs, hb]

theorem stepBytes_sdec_block (hs : s.started = true) (hb : s.bidx < s.totb) :
    stepBytes P (.sdec c) s =
      if c = true then []
      else decodeBlock (s.inQ.take (min 8192 (s.ltot - 8192 * s.bidx))) (stretch P (s.chainValue P) 8192)
        (generate P (stretch P (s.chainValue P) 8192)).2 := by
  simp [stepBytes, hs, hb]

theorem stepRecords_block {i : Instr} (hi : isStream i = true) (hs : s.started = true) (hb : s.bidx < s.totb) :
    stepRecords P i s = if s.bidx % s.intv = 0 then [⟨s.bidx, s.totb, s.bidx, s.totb⟩] else [] := by
  simp [stepRecords, hi, hs, hb]

theorem stepTakes_senc_block (hs : s.started = true) (hb : s.bidx < s.totb) :
    stepTakes (.senc c) s = if c = true then 0 else min 8192 (s.ltot - 8192 * s.bidx) := by
  simp [stepTakes, hs, hb]

theorem stepTakes_sdec_block (hs : s.started = true) (hb : s.bidx < s.totb) :
    stepTakes (.sdec c) s = min 8192 (s.ltot - 8192 * s.bidx) := by
  simp [stepTakes, hs, hb]

theorem stepBytes_senc_block_length_le (hs : s.started = true) (hb : s.bidx < s.totb) :
    (stepBytes P (.senc c) s).length ≤ min 8192 (s.ltot - 8192 * s.bidx) := by
  rw [stepBytes_senc_block hs hb, encodeBlock_length]
  cases c <;> simp

theorem stepBytes_sdec_block_length_le (hs : s.started = true) (hb : s.bidx < s.totb) :
    (stepBytes P (.sdec c) s).length ≤ if c = true then 0 else min 8192 (s.ltot - 8192 * s.bidx) := by
  rw [stepBytes_sdec_block hs hb]
  cases c <;> simp

theorem outTakes_of_le {m n : Nat} (h : fits (s.outQ.length + n) P.outDepth) (hmn : m ≤ n) : outTakes P s m :=
  .inr (fits_mono h (by omega))

/-- At most one record is due, so EVT takes those that are when it has one place. -/
theorem evtTakes_of_le_one {rs : List Progress} (hlen : rs.length ≤ 1)
    (h : rs ≠ [] → fits (s.evtQ.length + 1) P.evtDepth) : evtTakes P s rs :=
  fun hne => fits_mono (h hne) (by omega)

theorem due_length_le_one (p : Prop) [Decidable p] (r : Progress) : (if p then [r] else []).length ≤ 1 := by
  split <;> simp

/-! ### What a block step's body leaves -/

theorem sencBlock_writes (P : Params) (c : Bool) (s : State) :
    (sencBlock P c s).resets = s.resets ∧
      (sencBlock P c s).bkey = s.bkey.writeBytes (s.fresh P .bkey) 0 (stretch P (s.chainValue P) 8192) ∧
      (sencBlock P c s).perm = s.perm.writeBytes (s.fresh P .perm) 0 (generate P (stretch P (s.chainValue P) 8192)).1 ∧
      (sencBlock P c s).iperm = s.iperm.writeBytes (s.fresh P .iperm) 0 (generate P (stretch P (s.chainValue P) 8192)).2 := by
  cases c <;> exact ⟨rfl, rfl, rfl, rfl⟩

theorem sdecBlock_writes (P : Params) (c : Bool) (s : State) :
    (sdecBlock P c s).resets = s.resets ∧
      (sdecBlock P c s).bkey = s.bkey.writeBytes (s.fresh P .bkey) 0 (stretch P (s.chainValue P) 8192) ∧
      (sdecBlock P c s).perm = s.perm.writeBytes (s.fresh P .perm) 0 (generate P (stretch P (s.chainValue P) 8192)).1 ∧
      (sdecBlock P c s).iperm = s.iperm.writeBytes (s.fresh P .iperm) 0 (generate P (stretch P (s.chainValue P) 8192)).2 := by
  cases c <;> exact ⟨rfl, rfl, rfl, rfl⟩

end BlockStep

/-- Settles O33: the body of the block step, then the drain of its pushes, or all of them at once when they fit. -/
theorem sencBlockStep : Obligations.SencBlockStep := by
  intro c s h hs ha hb hk n b bk due hn
  obtain ⟨-, -, hp, hf⟩ := id h
  have hbytes : stepBytes Config.params (.senc c) s = encodeBlock b bk (generate Config.params bk).1 :=
    stepBytes_senc_block hs hb
  have hrecords : stepRecords Config.params (.senc c) s = due := stepRecords_block rfl hs hb
  have htakes : stepTakes (.senc c) s ≤ s.inQ.length := by
    rw [stepTakes_senc_block hs hb]
    cases c with
    | false => exact hn rfl
    | true => exact Nat.zero_le _
  have hbk : bk.length = 8192 := stretch_length _ hk _
  have htail : bk.drop (8192 - min s.klen 8192) = keyTail bk s.klen := (keyTail_eq_drop hbk _).symm
  obtain ⟨hr, hbkey, hperm, hiperm⟩ := sencBlock_writes Config.params c s
  rw [htail]
  refine ⟨fun ho => ?held, fun hout hevt => ?room⟩
  case held =>
    refine ⟨sencBlock Config.params c s, ?_, ?_, writtenFrom_writeBytes hr hbkey, tablesFrom_writeBytes hr hperm hiperm⟩
    · rw [exec_open (.senc c) h ha htakes (by rwa [hbytes, hrecords]), bodyOf_senc_block c hs hb]
    · cases c <;> simp [sencBlock, State.loadBlock, State.loadTables, State.emit, State.dropIn, State.dueRecords_eq,
        Status.tablesValid, State.blockLen, State.inBytes, pushBytes, blockSize, hp, n, b, bk, due]
  case room =>
    have hone : due.length ≤ 1 := due_length_le_one _ _
    have hstep := exec_settle (.senc c) h ha htakes (outTakes_of_le hout (stepBytes_senc_block_length_le hs hb))
      (by rw [hrecords]; exact evtTakes_of_le_one hone hevt)
    rw [hbytes, hrecords, bodyOf_senc_block c hs hb] at hstep
    refine ⟨_, hstep, ?_, hbk, writtenFrom_writeBytes hr hbkey, tablesFrom_writeBytes hr hperm hiperm⟩
    cases c <;> simp [State.settle, sencBlock, State.loadBlock, State.loadTables, State.emit, State.dropIn, State.dueRecords_eq,
      Status.tablesValid, State.blockLen, State.inBytes, pushBytes, blockSize, hp, hf, n, b, bk, due]

/-- Settles O34: as O33's, with the decoded bytes among the pushes or in ZBUF. -/
theorem sdecBlockStep : Obligations.SdecBlockStep := by
  intro c s h hs ha hb hk n bk d due hn
  obtain ⟨-, -, hp, hf⟩ := id h
  have hbytes : stepBytes Config.params (.sdec c) s = if c then [] else d := stepBytes_sdec_block hs hb
  have hrecords : stepRecords Config.params (.sdec c) s = due := stepRecords_block rfl hs hb
  have htakes : stepTakes (.sdec c) s ≤ s.inQ.length := by rwa [stepTakes_sdec_block hs hb]
  have hbk : bk.length = 8192 := stretch_length _ hk _
  have htail : bk.drop (8192 - min s.klen 8192) = keyTail bk s.klen := (keyTail_eq_drop hbk _).symm
  obtain ⟨hr, hbkey, hperm, hiperm⟩ := sdecBlock_writes Config.params c s
  rw [htail]
  refine ⟨fun ho => ?held, fun hout hevt => ?room⟩
  case held =>
    refine ⟨sdecBlock Config.params c s, ?_, ?_, writtenFrom_writeBytes hr hbkey, tablesFrom_writeBytes hr hperm hiperm⟩
    · rw [exec_open (.sdec c) h ha htakes (by rwa [hbytes, hrecords]), bodyOf_sdec_block c hs hb]
    · cases c <;> simp [sdecBlock, State.loadBlock, State.loadTables, State.emit, State.dropIn, State.dueRecords_eq,
        Status.tablesValid, State.blockLen, State.inBytes, pushBytes, blockSize, hp, n, bk, d, due]
  case room =>
    have hone : due.length ≤ 1 := due_length_le_one _ _
    have htaken : outTakes Config.params s (stepBytes Config.params (.sdec c) s).length := by
      have hlen := stepBytes_sdec_block_length_le (P := Config.params) (c := c) hs hb
      cases c with
      | false => exact outTakes_of_le (hout rfl) hlen
      | true => exact .inl (Nat.le_zero.1 hlen)
    have hstep := exec_settle (.sdec c) h ha htakes htaken (by rw [hrecords]; exact evtTakes_of_le_one hone hevt)
    rw [hbytes, hrecords, bodyOf_sdec_block c hs hb] at hstep
    refine ⟨_, hstep, ?_, hbk, writtenFrom_writeBytes hr hbkey, tablesFrom_writeBytes hr hperm hiperm⟩
    cases c <;> simp [State.settle, sdecBlock, State.loadBlock, State.loadTables, State.emit, State.dropIn, State.dueRecords_eq,
      Status.tablesValid, State.blockLen, State.inBytes, pushBytes, blockSize, hp, hf, n, bk, d, due]

/-! ### The final steps (spec/43_streampipeline.md R212 to R214) -/

section FinalStep

variable {P : Params} {s : State}

theorem stepTakes_final {i : Instr} (hi : isStream i = true) (hs : s.started = true) (hb : ¬ s.bidx < s.totb) :
    stepTakes i s = 0 := by
  cases i with
  | senc c => simp [stepTakes, hs, hb]
  | sdec c => simp [stepTakes, hb]
  | stretch | genperm | encb | decb | encblk | decblk | encode | decode | abort => simp [isStream] at hi

/-- The final step of SENC, and of SDEC with C = 0, has one push: the final record. -/
theorem finalStep_record {i : Instr} (hi : i = .sdec false ∨ ∃ c, i = .senc c) (hs : s.started = true) (hb : ¬ s.bidx < s.totb) :
    bodyOf P i s = State.finish (State.emit [.record (finalRecord s.totb)] s) ∧ stepBytes P i s = [] ∧
      stepRecords P i s = [finalRecord s.totb] := by
  rcases hi with rfl | ⟨c, rfl⟩
  · exact ⟨bodyOf_sdec_final false hs hb, by simp [stepBytes, hb], by simp [stepRecords, isStream, hs, hb, finalRecord]⟩
  · exact ⟨bodyOf_senc_final c hs hb, by simp [stepBytes, hb], by simp [stepRecords, isStream, hs, hb, finalRecord]⟩

/-- The final step of SDEC with C = 1 and a message. -/
theorem finalStep_message {p : Bytes} (hs : s.started = true) (hb : ¬ s.bidx < s.totb) (hp : P.decompress s.zbuf = some p) :
    bodyOf P (.sdec true) s =
        State.finish (State.emit (pushBytes p ++ [.record (finalRecord s.totb)]) { s with olen := p.length }) ∧
      stepBytes P (.sdec true) s = p ∧ stepRecords P (.sdec true) s = [finalRecord s.totb] := by
  refine ⟨?_, by simp [stepBytes, hs, hb, hp], by simp [stepRecords, isStream, hs, hb, hp, finalRecord]⟩
  rw [bodyOf_sdec_final true hs hb]
  simp [sdecFinal, hp]

/-- The final step of SDEC with C = 1 and no message. -/
theorem finalStep_failed (hs : s.started = true) (hb : ¬ s.bidx < s.totb) (hp : P.decompress s.zbuf = none) :
    bodyOf P (.sdec true) s = s.raise .decodeFailed ∧ stepBytes P (.sdec true) s = [] ∧ stepRecords P (.sdec true) s = [] := by
  refine ⟨?_, by simp [stepBytes, hs, hb, hp], by simp [stepRecords, isStream, hs, hb, hp]⟩
  rw [bodyOf_sdec_final true hs hb]
  simp [sdecFinal, hp]

theorem isStream_of_recordOnly {i : Instr} (hi : i = .sdec false ∨ ∃ c, i = .senc c) : isStream i = true := by
  rcases hi with rfl | ⟨c, rfl⟩ <;> rfl

end FinalStep

/-- The final step of SENC, and of SDEC with C = 0, with room for its record. -/
theorem exec_final_record {i : Instr} {s : State} (hi : i = .sdec false ∨ ∃ c, i = .senc c) (h : s.atStep)
    (hs : s.started = true) (ha : s.status.abortreq = false) (hb : ¬ s.bidx < s.totb)
    (hevt : fits (s.evtQ.length + 1) Config.params.evtDepth) :
    exec i s =
      .next { s with evtQ := s.evtQ ++ [finalRecord s.totb], started := false, status := doneStatus s.status } := by
  obtain ⟨hbody, hbytes, hrecords⟩ := finalStep_record (P := Config.params) hi hs hb
  obtain ⟨-, -, hp, hf⟩ := id h
  have htakes := stepTakes_final (isStream_of_recordOnly hi) hs hb
  rw [exec_settle i h ha (by omega) (by rw [hbytes]; exact .inl rfl) (by rw [hrecords]; exact fun _ => hevt), hbody, hbytes,
    hrecords]
  simp [State.settle, hp, hf]

/-- Settles O35: the final step has its record as its last push, after the message when there is one. -/
theorem streamFinalSteps : Obligations.StreamFinalSteps := by
  intro s h hs ha hb
  have hb : ¬ s.bidx < s.totb := by omega
  obtain ⟨-, -, hp, hf⟩ := id h
  have htakes (i : Instr) (hi : isStream i = true) : stepTakes i s ≤ s.inQ.length := by
    rw [stepTakes_final hi hs hb]
    exact Nat.zero_le _
  refine ⟨⟨fun i hi ho => ?recordHeld, fun p hz ho => ?messageHeld⟩, fun hevt => ⟨fun c => ?senc, ?sdec, fun p hz hout => ?message⟩⟩
  case recordHeld =>
    obtain ⟨hbody, hbytes, hrecords⟩ := finalStep_record (P := Config.params) hi hs hb
    rw [exec_open i h ha (htakes i (isStream_of_recordOnly hi)) (by rwa [hbytes, hrecords]), hbody]
    simp [State.finish, State.emit, finalRecord, hp]
  case messageHeld =>
    obtain ⟨hbody, hbytes, hrecords⟩ := finalStep_message hs hb hz
    rw [exec_open (.sdec true) h ha (htakes _ rfl) (by rwa [hbytes, hrecords]), hbody]
    simp [State.finish, State.emit, finalRecord, pushBytes, hp]
  case senc => exact exec_final_record (.inr ⟨c, rfl⟩) h hs ha hb hevt
  case sdec => exact exec_final_record (.inl rfl) h hs ha hb hevt
  case message =>
    obtain ⟨hbody, hbytes, hrecords⟩ := finalStep_message hs hb hz
    rw [exec_settle (.sdec true) h ha (htakes _ rfl) (by rw [hbytes]; exact .inr hout)
      (by rw [hrecords]; exact fun _ => hevt), hbody, hbytes, hrecords]
    simp [State.settle, finalRecord, hp, hf]

/-- Settles O36: the final step's body is the error entry, which pushes nothing. -/
theorem sdecDecodeFailedPushesNothing : Obligations.SdecDecodeFailedPushesNothing := by
  refine ⟨fun _ => rfl, fun P s h hs ha hb hz => ?_⟩
  have hb : ¬ s.bidx < s.totb := by omega
  obtain ⟨hbody, hbytes, hrecords⟩ := finalStep_failed hs hb hz
  obtain ⟨-, -, hp, hf⟩ := id h
  have htakes := stepTakes_final (i := .sdec true) rfl hs hb
  have hstep := commandUnder_settle (P := P) (i := .sdec true) h (by omega) (fun _ => ha) (by rw [hbytes]; exact .inl rfl)
    (by rw [hrecords]; exact fun hne => absurd rfl hne)
  rw [hbody, hbytes, hrecords] at hstep
  exact hstep.trans (by simp [State.settle, State.raise, Status.failed, hp, hf])

end Sys2Proof.Machine

namespace Sys2Proof.Machine

/-! ### Waiting pushes (spec/20_memory.md R70, R72) -/

theorem exec_drain (i : Instr) {s : State} (hport : s.cmdPort = none) (hbusy : s.status.busy = true) (h : s.pushing = true) :
    exec i s = .next (s.drain Config.params) := by
  rw [exec_turn i hport hbusy, ownStep]
  split <;> simp [streamStep, engineStep, h]

theorem pushing_iff {s : State} : s.pushing = true ↔ s.pend ≠ [] ∨ s.fin = true := by
  simp [State.pushing]

/-- A push without room stops the drain before it begins. -/
theorem drain_of_full {P : Params} {s : State} {p : Push} {rest : List Push} (hp : s.pend = p :: rest)
    (hfull : p.hasSpace P s = false) : s.drain P = s := by
  cases p with
  | byte b =>
    have hr : hasRoom s.outQ.length P.outDepth = false := hfull
    rw [State.drain, hp, drainPushes, if_neg (by simp [hr]), ← hp]
  | record r =>
    have hr : hasRoom s.evtQ.length P.evtDepth = false := hfull
    rw [State.drain, hp, drainPushes, if_neg (by simp [hr]), ← hp]

/-- Settles O41: each clause is one of the laws of `drainPushes`. -/
theorem waitingPushesKeepTheirOrder : Obligations.WaitingPushesKeepTheirOrder := by
  refine ⟨fun i s hport hbusy h => exec_drain i hport hbusy (pushing_iff.2 h), fun P s => ?_⟩
  obtain ⟨hout, hevt⟩ := drainPushes_conserves P s.pend s
  obtain ⟨hbyte, hrecord⟩ := drainPushes_waits P s.pend s
  refine ⟨s.drain_frame P, hout, hevt, drainPushes_pend_sub P s.pend s, hbyte, hrecord, fun hne => ?held, fun hnil => ?made,
    fun b rest hp hfull => ?fullOut, fun r rest hp hfull => ?fullEvt⟩
  case held =>
    rcases drainPushes_cases P s.pend s with ⟨hnil, -⟩ | ⟨-, hfin, hstatus, hstarted⟩
    · exact absurd hnil hne
    · exact ⟨hstatus, hfin, hstarted⟩
  case made =>
    rcases drainPushes_cases P s.pend s with ⟨-, hfin, hstatus, hstarted⟩ | ⟨hne, -⟩
    · exact ⟨hfin, hstatus, hstarted⟩
    · exact absurd hnil hne
  case fullOut => exact drain_of_full hp (by rwa [← Bool.not_eq_true, Push.hasSpace, hasRoom_iff])
  case fullEvt => exact drain_of_full hp (by rwa [← Bool.not_eq_true, Push.hasSpace, hasRoom_iff])

/-! ### What only a command's body changes (spec/10_state.md R47) -/

/-- `t` is `s` but for the registers and queues that acceptance, aborts and the drain of pushes write. -/
def SameData (s t : State) : Prop :=
  t = { s with lcmd := t.lcmd, status := t.status, olen := t.olen, outQ := t.outQ, evtQ := t.evtQ, started := t.started,
               pend := t.pend, fin := t.fin, cmdPort := t.cmdPort }

namespace SameData

theorem accept (w : Word) (checks : List Check) (s : State) :
    SameData s (State.accept w checks { s with cmdPort := none }) := by
  cases h : firstError checks with
  | none => rw [State.accept_of_none h]; rfl
  | some e => rw [State.accept_of_some h]; rfl

theorem busyWriteOf (i : Instr) (s : State) : SameData s (busyWriteOf i { s with cmdPort := none }) := by
  rcases busyWriteOf_cases i { s with cmdPort := none } with h | h <;> rw [h] <;> rfl

theorem drain (P : Params) (s : State) : SameData s (s.drain P) := by
  rw [State.drain_frame]
  rfl

/-- One step of a command changes the rest of the state by its body alone. -/
theorem of_exec {i : Instr} {s t : State} (h : exec i s = .next t) :
    SameData s t ∨ SameData (bodyOf Config.params i s) t :=
  exec_cases (fun s t => SameData s t ∨ SameData (bodyOf Config.params i s) t) i s t h
    (busyWrite := fun _ _ _ => .inl (busyWriteOf i s))
    (accept := fun w _ _ => .inl (accept w _ s))
    (stay := fun _ => .inl rfl)
    (abort := fun _ _ _ _ _ => .inl rfl)
    (pushes := fun _ _ _ => .inl (drain _ s))
    (body := fun _ _ _ _ _ _ => .inr (drain _ _))

/-- What the other operations leave alone and the body keeps, the step keeps. -/
theorem keeps {α : Type} (f : State → α) {i : Instr} {s t : State} (h : exec i s = .next t)
    (hdata : ∀ u v, SameData u v → f v = f u) (hbody : f (bodyOf Config.params i s) = f s) : f t = f s := by
  rcases of_exec h with hs | hb
  · exact hdata s t hs
  · exact (hdata _ t hb).trans hbody

end SameData

section Bodies

variable {P : Params} {i : Instr} {s : State}

/-- DECODE's body: the tables are written, and then it pushes a message or fails. -/
theorem decodeBody_cases (P : Params) (c : Bool) (s : State) :
    let u := (s.dropIn s.mlen).loadTables P (generate P (stretch P (s.keyBytes P) s.mlen))
    (∃ p, decodeBody P c s = State.finish (State.emit (pushBytes p) { u with olen := p.length })) ∨
      decodeBody P c s = u.raise .decodeFailed := by
  simp only [decodeBody]
  split
  · exact .inl ⟨_, rfl⟩
  · exact .inr rfl

/-- SDEC's final step pushes a message and the record, or the record alone, or fails. -/
theorem sdecFinal_cases (P : Params) (c : Bool) (s : State) :
    (∃ p, sdecFinal P c s =
        State.finish (State.emit (pushBytes p ++ [.record (finalRecord s.totb)]) { s with olen := p.length })) ∨
      sdecFinal P c s = State.finish (State.emit [.record (finalRecord s.totb)] s) ∨
      sdecFinal P c s = s.raise .decodeFailed := by
  cases c with
  | false => exact .inr (.inl rfl)
  | true =>
    simp only [sdecFinal]
    split
    · split
      · exact .inl ⟨_, rfl⟩
      · exact .inr (.inr rfl)
    · exact .inr (.inl rfl)

/-- Only STRETCH to BKEY, SENC and SDEC write BKEY and BKLEN. -/
theorem bodyOf_bkey (hi : i ≠ .stretch true) (hs : isStream i = false) :
    (bodyOf P i s).bkey = s.bkey ∧ (bodyOf P i s).bklen = s.bklen := by
  cases i with
  | stretch sel =>
    cases sel with
    | false => exact ⟨rfl, rfl⟩
    | true => exact absurd rfl hi
  | genperm sel => cases sel <;> exact ⟨rfl, rfl⟩
  | decode c => rcases decodeBody_cases P c s with ⟨p, h⟩ | h <;> rw [bodyOf, h] <;> exact ⟨rfl, rfl⟩
  | senc c | sdec c => cases hs
  | encb | decb | encblk | decblk | encode | abort => exact ⟨rfl, rfl⟩

/-- The commands that write no table. -/
def keepsTables : Instr → Bool
  | .stretch _ | .encb | .decb | .encblk | .decblk | .abort => true
  | .genperm _ | .encode _ | .decode _ | .senc _ | .sdec _ => false

theorem bodyOf_tables (hi : keepsTables i = true) :
    (bodyOf P i s).perm = s.perm ∧ (bodyOf P i s).iperm = s.iperm := by
  cases i with
  | stretch sel => cases sel <;> exact ⟨rfl, rfl⟩
  | encb | decb | encblk | decblk | abort => exact ⟨rfl, rfl⟩
  | genperm | encode | decode | senc | sdec => cases hi

/-- Only SENC and SDEC write their counters and hidden values. -/
theorem bodyOf_stream_data (hs : isStream i = false) :
    (bodyOf P i s).bidx = s.bidx ∧ (bodyOf P i s).totb = s.totb ∧ (bodyOf P i s).intv = s.intv ∧
      (bodyOf P i s).pkt = s.pkt ∧ (bodyOf P i s).ltot = s.ltot ∧ (bodyOf P i s).zbuf = s.zbuf := by
  cases i with
  | stretch sel | genperm sel => cases sel <;> exact ⟨rfl, rfl, rfl, rfl, rfl, rfl⟩
  | decode c => rcases decodeBody_cases P c s with ⟨p, h⟩ | h <;> rw [bodyOf, h] <;> exact ⟨rfl, rfl, rfl, rfl, rfl, rfl⟩
  | senc c | sdec c => cases hs
  | encb | decb | encblk | decblk | encode | abort => exact ⟨rfl, rfl, rfl, rfl, rfl, rfl⟩

theorem bodyOf_senc_res (c : Bool) : (bodyOf P (.senc c) s).res = s.res := by
  rcases stage_cases s with h | ⟨h, hb⟩ | ⟨h, hb⟩
  · rw [bodyOf_senc_start c h]
    cases c <;> rfl
  · rw [bodyOf_senc_block c h hb]
    cases c <;> rfl
  · rw [bodyOf_senc_final c h hb]
    rfl

theorem bodyOf_sdec_res (c : Bool) : (bodyOf P (.sdec c) s).res = s.res := by
  rcases stage_cases s with h | ⟨h, hb⟩ | ⟨h, hb⟩
  · rw [bodyOf_sdec_start c h]
    rfl
  · rw [bodyOf_sdec_block c h hb]
    cases c <;> rfl
  · rw [bodyOf_sdec_final c h hb]
    rcases sdecFinal_cases P c s with ⟨p, h⟩ | h | h <;> rw [h] <;> rfl

/-- Only ENCB and DECB write RES. -/
theorem bodyOf_res (he : i ≠ .encb) (hd : i ≠ .decb) : (bodyOf P i s).res = s.res := by
  cases i with
  | stretch sel | genperm sel => cases sel <;> rfl
  | encb => exact absurd rfl he
  | decb => exact absurd rfl hd
  | decode c => rcases decodeBody_cases P c s with ⟨p, h⟩ | h <;> rw [bodyOf, h] <;> rfl
  | senc c => exact bodyOf_senc_res c
  | sdec c => exact bodyOf_sdec_res c
  | encblk | decblk | encode | abort => rfl

/-- The commands that take nothing from IN and push nothing, and STRETCH to OUT. -/
theorem bodyOf_inQ (hi : i ∈ [Instr.stretch false, .stretch true, .encb, .decb, .genperm true, .abort]) :
    (bodyOf P i s).inQ = s.inQ := by
  simp only [List.mem_cons, List.not_mem_nil, or_false] at hi
  rcases hi with rfl | rfl | rfl | rfl | rfl | rfl <;> rfl

theorem stepBytes_of_no_output
    (hi : i ∈ [Instr.stretch true, .genperm false, .genperm true, .encb, .decb, .abort]) : stepBytes P i s = [] := by
  simp only [List.mem_cons, List.not_mem_nil, or_false] at hi
  rcases hi with rfl | rfl | rfl | rfl | rfl | rfl <;> rfl

end Bodies

/-- What a command does to a buffer that no other operation writes. -/
theorem exec_byteAt {i : Instr} {s t : State} (h : exec i s = .next t) {sp : Space}
    (hbody : (bodyOf Config.params i s).buffer sp = s.buffer sp) (j : Nat) :
    t.byteAt Config.params sp j = s.byteAt Config.params sp j := by
  have hresets : t.resets = s.resets := (State.SameHostOperands.of_exec h).resets
  have hbuffer : t.buffer sp = s.buffer sp :=
    SameData.keeps (State.buffer · sp) h (fun u v huv => by rw [huv]; cases sp <;> rfl) hbody
  rw [State.byteAt, State.byteAt, State.fresh_eq, State.fresh_eq, hbuffer, hresets]

/-- Settles O43: a buffer that the body keeps is kept byte by byte (`exec_byteAt`). -/
theorem bufferFrames : Obligations.BufferFrames := by
  intro i s t h
  obtain ⟨-, hkey, -⟩ := bodyOf_frame Config.params i s
  refine ⟨fun hi sp j => exec_byteAt h ?_ j, fun hi sp j hsp => exec_byteAt h ?_ j, fun b hi sp j hp hq => exec_byteAt h ?_ j⟩
  · have hplain : i ≠ .stretch true ∧ isStream i = false ∧ keepsTables i = true := by
      simp only [List.mem_cons, List.not_mem_nil, or_false] at hi
      rcases hi with rfl | rfl | rfl | rfl | rfl | rfl <;> decide
    obtain ⟨hne, hs, ht⟩ := hplain
    obtain ⟨hperm, hiperm⟩ := bodyOf_tables (P := Config.params) (s := s) ht
    cases sp with
    | key => exact hkey
    | bkey => exact (bodyOf_bkey hne hs).1
    | perm => exact hperm
    | iperm => exact hiperm
  · subst hi
    cases sp with
    | bkey => exact absurd rfl hsp
    | key | perm | iperm => rfl
  · have hplain : i ≠ .stretch true ∧ isStream i = false := by
      rcases hi with rfl | rfl | rfl <;> exact ⟨nofun, rfl⟩
    cases sp with
    | key => exact hkey
    | bkey => exact (bodyOf_bkey hplain.1 hplain.2).1
    | perm => exact absurd rfl hp
    | iperm => exact absurd rfl hq

/-! ### OUT and EVT of a command that pushes nothing there -/

theorem drain_outQ_of_no_bytes {P : Params} {s : State} (h : pushedBytes s.pend = []) : (s.drain P).outQ = s.outQ := by
  obtain ⟨done, hdone⟩ := drainPushes_pend_sub P s.pend s
  have hleft : pushedBytes (drainPushes P s.pend s).pend = [] := by
    rw [← hdone, pushedBytes_append] at h
    exact (List.append_eq_nil_iff.1 h).2
  have hconserved := (drainPushes_conserves P s.pend s).1
  rwa [hleft, h, List.append_nil, List.append_nil] at hconserved

theorem drain_evtQ_of_no_records {P : Params} {s : State} (h : pushedRecords s.pend = []) : (s.drain P).evtQ = s.evtQ := by
  obtain ⟨done, hdone⟩ := drainPushes_pend_sub P s.pend s
  have hleft : pushedRecords (drainPushes P s.pend s).pend = [] := by
    rw [← hdone, pushedRecords_append] at h
    exact (List.append_eq_nil_iff.1 h).2
  have hconserved := (drainPushes_conserves P s.pend s).2
  rwa [hleft, h, List.append_nil, List.append_nil] at hconserved

theorem accept_queues (w : Word) (checks : List Check) (s : State) :
    (State.accept w checks s).outQ = s.outQ ∧ (State.accept w checks s).evtQ = s.evtQ := by
  cases h : firstError checks with
  | none => rw [State.accept_of_none h]; exact ⟨rfl, rfl⟩
  | some e => rw [State.accept_of_some h]; exact ⟨rfl, rfl⟩

theorem busyWriteOf_queues (i : Instr) (s : State) : (busyWriteOf i s).outQ = s.outQ ∧ (busyWriteOf i s).evtQ = s.evtQ := by
  rcases busyWriteOf_cases i s with h | h <;> rw [h] <;> exact ⟨rfl, rfl⟩

/-- While no push waits, OUT and EVT change only by the bytes and records of the step. -/
theorem exec_queues {i : Instr} {s t : State} (h : exec i s = .next t) (hp : s.pend = []) :
    (stepBytes Config.params i s = [] → t.outQ = s.outQ) ∧ (stepRecords Config.params i s = [] → t.evtQ = s.evtQ) :=
  exec_cases (fun s t => s.pend = [] →
      (stepBytes Config.params i s = [] → t.outQ = s.outQ) ∧ (stepRecords Config.params i s = [] → t.evtQ = s.evtQ)) i s t h
    (busyWrite := fun _ _ _ _ => ⟨fun _ => (busyWriteOf_queues i _).1, fun _ => (busyWriteOf_queues i _).2⟩)
    (accept := fun w _ _ _ => ⟨fun _ => (accept_queues w _ _).1, fun _ => (accept_queues w _ _).2⟩)
    (stay := fun _ _ => ⟨fun _ => rfl, fun _ => rfl⟩)
    (abort := fun _ _ _ _ _ _ => ⟨fun _ => rfl, fun _ => rfl⟩)
    (pushes := fun _ _ _ hp =>
      ⟨fun _ => drain_outQ_of_no_bytes (by rw [hp]; rfl), fun _ => drain_evtQ_of_no_records (by rw [hp]; rfl)⟩)
    (body := fun _ _ _ _ hn _ hp => by
      rw [inNeed_eq_stepTakes] at hn
      obtain ⟨hbytes, hrecords⟩ := bodyOf_pushes (P := Config.params) hp hn
      obtain ⟨hout, hevt⟩ := bodyOf_queues Config.params i s
      exact ⟨fun hnone => (drain_outQ_of_no_bytes (hbytes.trans hnone)).trans hout,
        fun hnone => (drain_evtQ_of_no_records (hrecords.trans hnone)).trans hevt⟩)
    hp

/-- Settles O44: a register that the body keeps is kept by the step (`SameData.keeps`), and OUT and EVT change by the step's
pushes alone (`exec_queues`). -/
theorem registerFrames : Obligations.RegisterFrames := by
  intro i s t h
  refine ⟨fun hs => ?stream, fun he hd => ?res, fun hi hs => ?bklen, fun hi => ?input,
    fun hp => ⟨fun hs => ?events, fun hi => ?output⟩⟩
  case stream =>
    obtain ⟨hbidx, htotb, hintv, hpkt, hltot, hzbuf⟩ := bodyOf_stream_data (P := Config.params) (s := s) hs
    exact ⟨SameData.keeps State.bidx h (fun _ _ => congrArg State.bidx) hbidx,
      SameData.keeps State.totb h (fun _ _ => congrArg State.totb) htotb,
      SameData.keeps State.intv h (fun _ _ => congrArg State.intv) hintv,
      SameData.keeps State.pkt h (fun _ _ => congrArg State.pkt) hpkt,
      SameData.keeps State.ltot h (fun _ _ => congrArg State.ltot) hltot,
      SameData.keeps State.zbuf h (fun _ _ => congrArg State.zbuf) hzbuf⟩
  case res => exact SameData.keeps State.res h (fun _ _ => congrArg State.res) (bodyOf_res he hd)
  case bklen => exact SameData.keeps State.bklen h (fun _ _ => congrArg State.bklen) (bodyOf_bkey hi hs).2
  case input => exact SameData.keeps State.inQ h (fun _ _ => congrArg State.inQ) (bodyOf_inQ hi)
  case events => exact (exec_queues h hp).2 (stepRecords_of_not_stream hs)
  case output => exact (exec_queues h hp).1 (stepBytes_of_no_output hi)

end Sys2Proof.Machine

namespace Sys2Proof.Machine

/-! ### Who moves (spec/20_memory.md R73) -/

section Moves

variable {s : State} {rest : List Move}

theorem step_of_nil (hp : s.cmdPort = none) (hs : s.sched = []) : step s = engineMove s := by
  simp [step, nextMove, hp, hs]

theorem step_of_engine (hp : s.cmdPort = none) (hs : s.sched = .engine :: rest) :
    step s = engineMove { s with sched := rest } := by
  simp [step, nextMove, hp, hs]

theorem engineMove_idle (hb : s.status.busy = false) : engineMove s = .next s := by
  simp [engineMove, hb]

theorem engineMove_busy {i : Instr} (hb : s.status.busy = true) (hi : decode s.lcmd = .ok i) : engineMove s = exec i s := by
  simp [engineMove, hb, hi]

/-- A word that stands at CMD, or is put there, runs its command. -/
theorem writeCommand_legal {w : Word} {i : Instr} (hi : decode w = .ok i) :
    writeCommand w s = exec i { s with cmdPort := some w } := by
  simp [writeCommand, hi]

theorem step_of_host {m : HostMove} (hp : s.cmdPort = none) (hs : s.sched = .host m :: rest) :
    step s = hostTurn m rest s := by
  simp [step, nextMove, hp, hs]

/-- An enabled host move, other than a CMD write, is made. -/
theorem step_of_hostMove {m : HostMove} {t : State} (hp : s.cmdPort = none) (hs : s.sched = .host m :: rest)
    (hm : ∀ v, m ≠ .wr 0 v) (h : hostMove Config.params m { s with sched := rest } = some t) : step s = .next t := by
  rw [step_of_host hp hs]
  cases m with
  | wr reg v =>
    cases reg with
    | zero => exact absurd rfl (hm v)
    | succ reg => simp only [hostTurn, h]
  | rd | ldb | rdb | push | pop | popevt | reset => simp only [hostTurn, h]

/-- A host move that is not enabled leaves the turn to the engine. -/
theorem step_of_hostWait {m : HostMove} (hp : s.cmdPort = none) (hs : s.sched = .host m :: rest)
    (h : hostMove Config.params m { s with sched := rest } = none) : step s = engineMove s := by
  rw [step_of_host hp hs]
  cases m with
  | wr reg v => cases h
  | rd | ldb | rdb | push | pop | popevt | reset => simp only [hostTurn, h]

end Moves

/-- Settles O5: each clause is one way that `nextMove` chooses. -/
theorem stepRunsTheDecodedCommand : Obligations.StepRunsTheDecodedCommand := by
  refine ⟨fun s w i hp hi => ?standing, fun s rest v i hp hs hi => ?written, fun s i hp hb hi hs => ?turn,
    fun s rest i hp hb hi hs => ?scheduled, fun s hp hb => ⟨fun hs => ?idle, fun rest hs => ?idleScheduled⟩⟩
  case standing => rw [step_of_cmdPort hp, writeCommand_legal hi, ← hp]
  case written => rw [step_of_cmdWrite hp hs, writeCommand_legal hi]
  case turn => rw [step_of_nil hp hs, engineMove_busy hb hi]
  case scheduled => rw [step_of_engine hp hs, engineMove_busy (s := { s with sched := rest }) hb hi]
  case idle => rw [step_of_nil hp hs, engineMove_idle hb]
  case idleScheduled => rw [step_of_engine hp hs, engineMove_idle (s := { s with sched := rest }) hb]

/-! ### Acceptance (spec/44_control.md R240, 60_exceptions.md R260) -/

/-- The checks of a command find the first of its causes in R260's order. -/
theorem firstError_checksOf (P : Params) (i : Instr) (s : State) :
    (lenRangeCause P i s → firstError (checksOf P i s) = some .lenRange) ∧
    (¬ lenRangeCause P i s → zeroKeyCause i s → firstError (checksOf P i s) = some .zeroKey) ∧
    (¬ lenRangeCause P i s → ¬ zeroKeyCause i s → noTableCause i s → firstError (checksOf P i s) = some .noTable) ∧
    (¬ lenRangeCause P i s → ¬ zeroKeyCause i s → ¬ noTableCause i s → keyShortCause i s →
      firstError (checksOf P i s) = some .keyShort) ∧
    (¬ lenRangeCause P i s → ¬ zeroKeyCause i s → ¬ noTableCause i s → ¬ keyShortCause i s →
      firstError (checksOf P i s) = none) := by
  have hnil : firstError [] = none := rfl
  cases i with
  | stretch sel =>
    simp only [checksOf, stretchChecks, firstError_cons, hnil, lenRangeCause, zeroKeyCause, noTableCause, keyShortCause,
      ← exceeds_eq_false, blockSize]
    grind
  | genperm sel =>
    simp only [checksOf, genpermChecks, firstError_cons, hnil, lenRangeCause, zeroKeyCause, noTableCause, keyShortCause, blockSize]
    grind
  | encb | decb =>
    simp only [checksOf, byteChecks, firstError_cons, hnil, lenRangeCause, zeroKeyCause, noTableCause, keyShortCause]
    grind
  | encblk | decblk =>
    simp only [checksOf, blockChecks, firstError_cons, hnil, lenRangeCause, zeroKeyCause, noTableCause, keyShortCause, blockSize]
    grind
  | encode c | decode c | senc c | sdec c =>
    simp only [checksOf, keyedChecks, firstError_cons, hnil, lenRangeCause, zeroKeyCause, noTableCause, keyShortCause,
      ← exceeds_eq_false]
    grind
  | abort => simp [checksOf, lenRangeCause, zeroKeyCause, noTableCause, keyShortCause, hnil]

/-- A failing check turns the word away. -/
theorem exec_turnedAway {i : Instr} {s : State} {w : Word} {e : ErrCode} (hp : s.cmdPort = some w) (hb : s.status.busy = false)
    (h : firstError (checksOf Config.params i s) = some e) : exec i s = .next (turnedAway w e s) := by
  rw [exec_idle i hp hb, State.accept_of_some h]
  rfl

theorem exec_takenUp {i : Instr} {s : State} {w : Word} (hp : s.cmdPort = some w) (hb : s.status.busy = false)
    (h : firstError (checksOf Config.params i s) = none) : exec i s = .next (takenUp w s) := by
  rw [exec_idle i hp hb, State.accept_of_none h]
  rfl

/-- Settles O6: the first failing check is the first cause (`firstError_checksOf`). -/
theorem acceptanceFollowsTheFixedOrder : Obligations.AcceptanceFollowsTheFixedOrder := by
  intro i s w hp hb
  obtain ⟨hlen, hzero, htable, hshort, hnone⟩ := firstError_checksOf Config.params i s
  exact ⟨fun h1 => exec_turnedAway hp hb (hlen h1), fun h1 h2 => exec_turnedAway hp hb (hzero h1 h2),
    fun h1 h2 h3 => exec_turnedAway hp hb (htable h1 h2 h3), fun h1 h2 h3 h4 => exec_turnedAway hp hb (hshort h1 h2 h3 h4),
    fun h1 h2 h3 h4 => exec_takenUp hp hb (hnone h1 h2 h3 h4)⟩

/-- Settles O54: after reset every length is 0 and no table is valid. -/
theorem firstCommandAfterReset : Obligations.FirstCommandAfterReset := by
  intro i
  have hword : BitVec.ofNat 32 ((encode i).toNat % 2 ^ 32) = encode i := by
    rw [Nat.mod_eq_of_lt (encode i).isLt, BitVec.ofNat_toNat, BitVec.setWidth_eq]
  have hstep : step (State.reset.presentWord (encode i)) = exec i (State.reset.presentWord (encode i)) :=
    stepRunsTheDecodedCommand.1 _ _ i rfl (decode_encode i)
  rw [State.withFetchWord, hword, hstep]
  have hzero : fits 0 Config.params.keyMax := fun _ _ => Nat.zero_le _
  obtain ⟨-, zeroKey, noTable, -, takenUp⟩ :=
    acceptanceFollowsTheFixedOrder i (State.reset.presentWord (encode i)) (encode i) rfl rfl
  cases i with
  | abort => exact takenUp id id id id
  | encb | decb => exact noTable id id rfl
  | stretch sel => exact zeroKey (by simp [lenRangeCause, State.reset, hzero]) rfl
  | genperm sel =>
    refine zeroKey (by simp [lenRangeCause, State.reset]) ?_
    cases sel <;> simp [zeroKeyCause, State.reset]
  | encblk | decblk => exact zeroKey (by simp [lenRangeCause, State.reset]) rfl
  | encode c | decode c | senc c | sdec c => exact zeroKey (by simp [lenRangeCause, State.reset, hzero]) rfl

/-! ### STATUS (spec/10_state.md R23) -/

/-- Settles O46: each field of the word is read at its place. -/
theorem statusWordLayout : Obligations.StatusWordLayout := by
  refine ⟨⟨rfl, rfl, rfl, rfl, rfl, rfl, rfl⟩, fun f => ⟨?busy, ?done, ?pvalid, ?abortreq, ?err, ?aborted, ?above⟩⟩
  case err =>
    refine BitVec.eq_of_getLsbD_eq fun j hj => ?_
    simp only [Status.word, BitVec.getLsbD_extractLsb', BitVec.getLsbD_append, BitVec.getLsbD_ofBool]
    grind
  case above =>
    refine Nat.lt_pow_two_of_testBit _ fun j hj => ?_
    simp only [Status.word, BitVec.testBit_toNat, BitVec.getLsbD_append, BitVec.getLsbD_ofBool, BitVec.getLsbD_zero]
    grind
  all_goals simp only [Status.word, BitVec.getLsbD_append, BitVec.getLsbD_ofBool]; simp

end Sys2Proof.Machine

namespace Sys2Proof.Machine

/-! ### The host's accesses (spec/20_memory.md R67 to R69, 10_state.md R21) -/

section Accesses

variable {P : Params} {s : State}

theorem hostRead_busy {reg : Nat} (hreg : s.registerFree reg = true) :
    s.hostRead P reg =
      { s with rdata := .number (cutToWidth reg (P.freeNumber s.freeReads reg)), freeReads := s.freeReads + 1 } := by
  simp [State.hostRead, hreg]

/-- A read that is not left open returns the register. -/
theorem hostRead_value {reg : Nat} (hreg : s.registerFree reg = false) :
    s.hostRead P reg = { s with rdata := .number (s.registerValue reg) } := by
  simp [State.hostRead, hreg]

theorem registerFree_idle (hb : s.status.busy = false) (reg : Nat) : s.registerFree reg = false := by
  simp [State.registerFree, hb]

theorem registerFree_status (s : State) : s.registerFree 1 = false := by
  simp [State.registerFree]

theorem registerFree_absent {reg : Nat} (h : 11 ≤ reg) : s.registerFree reg = false := by
  simp [State.registerFree]
  omega

theorem registerValue_absent {reg : Nat} (h : 11 ≤ reg) : s.registerValue reg = 0 := by
  unfold State.registerValue
  repeat rw [if_neg (by omega)]

theorem hostWrite_busy (hb : s.status.busy = true) (reg v : Nat) : s.hostWrite reg v = s := by
  simp [State.hostWrite, hb]

/-- Only KLEN, MLEN, BKLEN and OPB take a write. -/
theorem hostWrite_ignored {reg : Nat} (h : reg < 2 ∨ 5 < reg) (v : Nat) : s.hostWrite reg v = s := by
  unfold State.hostWrite
  split
  · rfl
  · repeat rw [if_neg (by omega)]

theorem hostLoad_busy (hb : s.status.busy = true) (sp : Space) (i : Nat) (b : Byte) : s.hostLoad P sp i b = s := by
  simp [State.hostLoad, hb]

theorem hostLoad_absent {sp : Space} {i : Nat} (h : indexExists P sp i = false) (b : Byte) : s.hostLoad P sp i b = s := by
  simp [State.hostLoad, h]

theorem hostFetch_absent {sp : Space} {i : Nat} (h : indexExists P sp i = false) :
    s.hostFetch P sp i = { s with rdata := .byte 0 } := by
  simp [State.hostFetch, h]

theorem hostFetch_idle {sp : Space} {i : Nat} (hb : s.status.busy = false) (h : indexExists P sp i = true) :
    s.hostFetch P sp i = { s with rdata := .byte (s.byteAt P sp i) } := by
  simp [State.hostFetch, h, hb]

/-- A read of a register changes the host's record only. -/
theorem hostRead_frame (reg : Nat) : ∃ d n, s.hostRead P reg = { s with rdata := d, freeReads := n } := by
  cases h : s.registerFree reg with
  | false => exact ⟨_, _, hostRead_value h⟩
  | true => exact ⟨_, _, hostRead_busy h⟩

/-- A read of a buffer changes the host's record only. -/
theorem hostFetch_frame (sp : Space) (i : Nat) : ∃ d n, s.hostFetch P sp i = { s with rdata := d, freeReads := n } := by
  unfold State.hostFetch
  split
  · exact ⟨_, _, rfl⟩
  · split <;> exact ⟨_, _, rfl⟩

end Accesses

section AccessSteps

variable {s : State} {rest : List Move}

theorem step_of_wr {reg v : Nat} (hp : s.cmdPort = none) (hreg : reg ≠ 0) (hs : s.sched = .host (.wr reg v) :: rest) :
    step s = .next ({ s with sched := rest }.hostWrite reg v) :=
  step_of_hostMove hp hs (fun _ h => hreg (HostMove.wr.inj h).1) rfl

theorem step_of_rd {reg : Nat} (hp : s.cmdPort = none) (hs : s.sched = .host (.rd reg) :: rest) :
    step s = .next ({ s with sched := rest }.hostRead Config.params reg) :=
  step_of_hostMove hp hs (fun _ => nofun) rfl

theorem step_of_ldb {sp : Space} {i : Nat} {b : Byte} (hp : s.cmdPort = none) (hs : s.sched = .host (.ldb sp i b) :: rest) :
    step s = .next ({ s with sched := rest }.hostLoad Config.params sp i b) :=
  step_of_hostMove hp hs (fun _ => nofun) rfl

theorem step_of_rdb {sp : Space} {i : Nat} (hp : s.cmdPort = none) (hs : s.sched = .host (.rdb sp i) :: rest) :
    step s = .next ({ s with sched := rest }.hostFetch Config.params sp i) :=
  step_of_hostMove hp hs (fun _ => nofun) rfl

end AccessSteps

/-- The eleven registers by number (10_state.md R21). -/
theorem registerValue_table {s : State} {p : Nat × Nat}
    (hp : p ∈ [(0, s.lcmd.toNat), (1, s.status.word.toNat), (2, s.klen), (3, s.mlen), (4, s.bklen), (5, s.opb.toNat),
      (6, s.res.toNat), (7, s.olen), (8, s.bidx), (9, s.totb), (10, s.intv)]) : s.registerValue p.1 = p.2 := by
  simp only [List.mem_cons, List.not_mem_nil, or_false] at hp
  rcases hp with rfl | rfl | rfl | rfl | rfl | rfl | rfl | rfl | rfl | rfl | rfl <;> rfl

/-- Settles O47: an idle engine's accesses are the plain ones. -/
theorem idleHostAccess : Obligations.IdleHostAccess := by
  intro s rest hp hb
  refine ⟨fun v hs => ?klen, fun v hs => ?mlen, fun v hs => ?bklen, fun v _ hs => ?opb, fun reg v hreg hs => ?ignored,
    fun p hmem hs => ?read, fun sp i hi hs => ?fetch⟩
  case klen => rw [step_of_wr hp (by omega) hs]; simp [State.hostWrite, hb]
  case mlen => rw [step_of_wr hp (by omega) hs]; simp [State.hostWrite, hb]
  case bklen => rw [step_of_wr hp (by omega) hs]; simp [State.hostWrite, hb]
  case opb => rw [step_of_wr hp (by omega) hs]; simp [State.hostWrite, hb]
  case ignored => rw [step_of_wr hp (by omega) hs, hostWrite_ignored (by omega)]
  case read =>
    rw [step_of_rd hp hs, hostRead_value (registerFree_idle (by exact hb) _)]
    exact congrArg (fun v => Host.Outcome.next { s with sched := rest, rdata := .number v }) (registerValue_table hmem)
  case fetch => rw [step_of_rdb hp hs, hostFetch_idle (by exact hb) hi]; rfl

/-- What a load into an idle engine leaves. -/
theorem hostLoad_idle {P : Params} {s : State} {sp : Space} {i : Nat} (hb : s.status.busy = false)
    (hi : indexExists P sp i = true) (b : Byte) :
    s.hostLoad P sp i b =
      { s with key := if sp = .key then s.key.write (s.fresh P .key) i b else s.key,
               bkey := if sp = .bkey then s.bkey.write (s.fresh P .bkey) i b else s.bkey } := by
  cases sp <;> simp [State.hostLoad, hb, hi]

theorem hostLoad_buffer {P : Params} {s : State} {sp : Space} {i : Nat} (hb : s.status.busy = false)
    (hi : indexExists P sp i = true) (b : Byte) (sp' : Space) :
    (s.hostLoad P sp i b).buffer sp' =
      if (sp = .key ∨ sp = .bkey) ∧ sp' = sp then (s.buffer sp').write (s.fresh P sp') i b else s.buffer sp' := by
  rw [hostLoad_idle hb hi]
  cases sp' with
  | key => cases sp <;> rfl
  | bkey => cases sp <;> rfl
  | perm | iperm => cases sp <;> rfl

/-- Settles O48: a load writes one byte of KEY or BKEY (`hostLoad_buffer`). -/
theorem idleBufferLoads : Obligations.IdleBufferLoads := by
  intro s rest sp i b hp hb hi hs
  have hload := hostLoad_idle (s := { s with sched := rest }) hb hi b
  have hbuffer := hostLoad_buffer (s := { s with sched := rest }) hb hi b
  have hfresh (sp' : Space) : ({ s with sched := rest }.hostLoad Config.params sp i b).fresh Config.params sp' =
      s.fresh Config.params sp' := by rw [hload]; rfl
  refine ⟨_, step_of_ldb hp hs, by rw [hload], fun sp' j => ?byte, fun hwf sp' => ?canonical⟩
  case byte =>
    rw [State.byteAt, hbuffer, hfresh]
    by_cases hw : (sp = .key ∨ sp = .bkey) ∧ sp' = sp
    · rw [if_pos hw]
      refine (Memory.read_write _ i b j).trans ?_
      simp only [hw, true_and]
      rfl
    · rw [if_neg hw, if_neg fun h => hw ⟨h.1, h.2.1⟩]
      rfl
  case canonical =>
    rw [hbuffer, hfresh]
    split
    · exact Memory.wf_write (hwf sp') i b
    · exact hwf sp'

/-- Settles O49: a busy engine's registers and buffers take no write, and reads change the host's record only. -/
theorem busyHostAccess : Obligations.BusyHostAccess := by
  intro s rest hp hb
  refine ⟨fun reg v hreg hs => ?write, fun sp i b hs => ?load, fun hs => ?status, fun reg hs => ?read, fun sp i hs => ?fetch⟩
  case write => rw [step_of_wr hp hreg hs, hostWrite_busy (by exact hb)]
  case load => rw [step_of_ldb hp hs, hostLoad_busy (by exact hb)]
  case status => rw [step_of_rd hp hs, hostRead_value (registerFree_status _)]; rfl
  case read =>
    obtain ⟨d, n, h⟩ := hostRead_frame (P := Config.params) (s := { s with sched := rest }) reg
    exact ⟨d, n, by rw [step_of_rd hp hs, h]⟩
  case fetch =>
    obtain ⟨d, n, h⟩ := hostFetch_frame (P := Config.params) (s := { s with sched := rest }) sp i
    exact ⟨d, n, by rw [step_of_rdb hp hs, h]⟩

/-- Settles O50: what does not exist reads 0 and takes no write, busy or idle. -/
theorem absentPlacesReadZero : Obligations.AbsentPlacesReadZero := by
  intro s rest hp
  refine ⟨fun reg hreg hs => ?read, fun reg v hreg hs => ?write, fun sp i b hi => ⟨fun hs => ?fetch, fun hs => ?load⟩⟩
  case read => rw [step_of_rd hp hs, hostRead_value (registerFree_absent hreg), registerValue_absent hreg]
  case write => rw [step_of_wr hp (by omega) hs, hostWrite_ignored (by omega)]
  case fetch => rw [step_of_rdb hp hs, hostFetch_absent hi]
  case load => rw [step_of_ldb hp hs, hostLoad_absent hi]

/-! ### The host's ends of the streams (spec/10_state.md R39 to R41) -/

theorem inRoom_of_fits {P : Params} {s : State} (h : fits (s.inQ.length + 1) P.inDepth) : s.inRoom P = true := by
  rw [State.inRoom, hasRoom_iff.2 h, Bool.or_true]

theorem hostMove_push {P : Params} {s : State} (b : Byte) (h : s.inRoom P = true) :
    hostMove P (.push b) s = some { s with inQ := s.inQ ++ [b] } := by
  simp [hostMove, h]

/-- Settles O51: each port moves one element at its end of its queue. -/
theorem streamPortsAreFifo : Obligations.StreamPortsAreFifo := by
  intro s rest hp
  refine ⟨fun b hfits hs => ?push, fun b q hq hs => ?pop, fun r q hq hs => ?popevt⟩
  case push =>
    exact step_of_hostMove hp hs (fun _ => nofun) (hostMove_push (s := { s with sched := rest }) b (inRoom_of_fits hfits))
  case pop => exact step_of_hostMove hp hs (fun _ => nofun) (by simp [hostMove, hq])
  case popevt => exact step_of_hostMove hp hs (fun _ => nofun) (by simp [hostMove, hq])

/-! What the engine wants of IN (20_memory.md R70) -/

theorem wantsInput_not_turn {s : State} (h : s.status.busy = false ∨ s.pushing = true) : s.wantsInput = false := by
  rcases h with h | h <;> simp [State.wantsInput, h]

theorem wantsInput_atStep {s : State} (h : s.atStep) {i : Instr} (hi : decode s.lcmd = .ok i) :
    s.wantsInput = (!(isStream i && s.status.abortreq) && decide (s.inQ.length < stepTakes i s)) := by
  obtain ⟨-, hb, -, -⟩ := id h
  simp only [State.wantsInput, hb, State.pushing_atStep h, hi, inNeed_eq_stepTakes, Bool.not_false, Bool.and_self, if_true]
  cases isStream i && s.status.abortreq <;> rfl

theorem hostMove_push_of_full {P : Params} {s : State} (b : Byte) (hw : s.wantsInput = false)
    (hfull : ¬ fits (s.inQ.length + 1) P.inDepth) : hostMove P (.push b) s = none := by
  have hroom : hasRoom s.inQ.length P.inDepth = false := by rwa [← Bool.not_eq_true, hasRoom_iff]
  simp [hostMove, State.inRoom, hw, hroom]

/-- Settles O52: a push waits on a full IN unless the engine wants the byte (`wantsInput_atStep`). -/
theorem disabledHostMovesWait : Obligations.DisabledHostMovesWait := by
  refine ⟨fun P s b => ⟨fun hb hfull => ?idle, fun i h hi hs ha hfull => ?aborting, fun hb hpush hfull => ?pushing,
    fun i h hi hn hfull => ?enough, fun i h hi hn ha => ?wanted, fun hq => by simp [hostMove, hq],
    fun hq => by simp [hostMove, hq]⟩, fun s rest m hp hs hm => ⟨fun hb => ?waitIdle, fun i hb hi => ?waitBusy⟩⟩
  case idle => exact hostMove_push_of_full b (wantsInput_not_turn (.inl hb)) hfull
  case aborting => exact hostMove_push_of_full b (by rw [wantsInput_atStep h hi, hs, ha]; rfl) hfull
  case pushing => exact hostMove_push_of_full b (wantsInput_not_turn (.inr (pushing_iff.2 hpush))) hfull
  case enough => exact hostMove_push_of_full b (by simp [wantsInput_atStep h hi, hn]) hfull
  case wanted =>
    have hfree : (isStream i && s.status.abortreq) = false := by
      cases hs : isStream i with
      | false => rfl
      | true => exact ha hs
    exact hostMove_push b (by simp [State.inRoom, wantsInput_atStep h hi, hn, hfree])
  case waitIdle => rw [step_of_hostWait hp hs hm, engineMove_idle hb]
  case waitBusy => rw [step_of_hostWait hp hs hm, engineMove_busy hb hi]

/-! ### Reset (spec/10_state.md R46) -/

theorem Status.reset_word : Status.reset.word = 0 := by decide

theorem State.afterReset_status (s : State) : s.afterReset.status = Status.reset := rfl

/-- Settles O53: the buffers list nothing after a reset, so every byte reads as its free value. -/
theorem resetLeavesTheTable : Obligations.ResetLeavesTheTable := by
  intro s rest hp hs
  refine ⟨{ s with sched := rest }.afterReset, step_of_hostMove hp hs (fun _ => nofun) rfl, rfl, by rw [State.afterReset_status, Status.reset_word], rfl, rfl, rfl, rfl,
    rfl, rfl, rfl, rfl, rfl, rfl, rfl, rfl, rfl, rfl, rfl, rfl, rfl, rfl, fun sp j => ?_, rfl, rfl, rfl⟩
  cases sp <;> rfl

end Sys2Proof.Machine

namespace Sys2Proof.Machine

/-! ### Every transition there is -/

/-- What a word at CMD leaves: acceptance or an error when idle, and at most a request when busy. -/
theorem writeCommand_cases {w : Word} {s t : State} (h : writeCommand w s = .next t) :
    let u : State := { s with cmdPort := none }
    (∃ i, decode w = .ok i ∧ s.status.busy = false ∧ t = u.accept w (checksOf Config.params i u)) ∨
      (s.status.busy = false ∧ t = (u.latch w).raise .illegalCmd) ∨
      (s.status.busy = true ∧ (t = u ∨ t = abortWhileBusy u)) := by
  intro u
  cases hd : decode w with
  | error e =>
    cases hb : s.status.busy with
    | false =>
      rw [writeCommand_illegal_idle ⟨e, hd⟩ hb] at h
      exact .inr (.inl ⟨rfl, (Host.Outcome.next.inj h).symm⟩)
    | true =>
      rw [writeCommand_illegal_busy ⟨e, hd⟩ hb] at h
      exact .inr (.inr ⟨rfl, .inl (Host.Outcome.next.inj h).symm⟩)
  | ok i =>
    cases hb : s.status.busy with
    | false =>
      rw [writeCommand_legal hd, exec_idle (s := { s with cmdPort := some w }) i rfl hb] at h
      exact .inl ⟨i, rfl, rfl, (Host.Outcome.next.inj h).symm.trans
        (congrArg (State.accept w · u) (checksOf_congr Config.params i u _ rfl rfl rfl rfl))⟩
    | true =>
      rw [writeCommand_legal_busy hd hb] at h
      have hwrite := Host.Outcome.next.inj h
      refine .inr (.inr ⟨rfl, ?_⟩)
      rw [← hwrite]
      exact busyWriteOf_cases i u

theorem engineMove_cases {s t : State} (h : engineMove s = .next t) :
    t = s ∨ ∃ i, s.status.busy = true ∧ decode s.lcmd = .ok i ∧ exec i s = .next t := by
  cases hb : s.status.busy with
  | false =>
    rw [engineMove_idle hb] at h
    exact .inl (Host.Outcome.next.inj h).symm
  | true =>
    cases hd : decode s.lcmd with
    | ok i => exact .inr ⟨i, rfl, rfl, by rwa [engineMove_busy hb hd] at h⟩
    | error e => simp [engineMove, hb, hd] at h

/-- A step is a CMD write, a move of the engine or another move of the host, with what is left of the schedule. -/
theorem step_cases {s t : State} (h : step s = .next t) :
    ∃ rest, (∃ w, writeCommand w { s with sched := rest } = .next t) ∨
      (s.cmdPort = none ∧ engineMove { s with sched := rest } = .next t) ∨
      (s.cmdPort = none ∧ ∃ m, s.sched = .host m :: rest ∧ hostMove Config.params m { s with sched := rest } = some t) := by
  rcases Option.eq_none_or_eq_some s.cmdPort with hp | ⟨w, hp⟩
  · rcases hs : s.sched with _ | ⟨_ | m, rest⟩
    · exact ⟨s.sched, .inr (.inl ⟨hp, by rwa [step_of_nil hp hs] at h⟩)⟩
    · exact ⟨rest, .inr (.inl ⟨hp, by rwa [step_of_engine hp hs] at h⟩)⟩
    · by_cases hm : ∃ v, m = .wr 0 v
      · obtain ⟨v, rfl⟩ := hm
        exact ⟨rest, .inl ⟨_, by rwa [step_of_cmdWrite hp hs] at h⟩⟩
      · cases hmove : hostMove Config.params m { s with sched := rest } with
        | none => exact ⟨s.sched, .inr (.inl ⟨hp, by rwa [step_of_hostWait hp hs hmove] at h⟩)⟩
        | some u =>
          rw [step_of_hostMove hp hs (fun v hv => hm ⟨v, hv⟩) hmove] at h
          exact ⟨rest, .inr (.inr ⟨hp, m, rfl, by rw [hmove, Host.Outcome.next.inj h]⟩)⟩
  · exact ⟨s.sched, .inl ⟨w, by rwa [step_of_cmdPort hp] at h⟩⟩

/-! ### PVALID (spec/10_state.md R38) -/

theorem hostMove_status {P : Params} {m : HostMove} {s t : State} (h : hostMove P m s = some t) (hm : m ≠ .reset) :
    t.status = s.status := by
  cases m with
  | wr reg v =>
    obtain rfl := Option.some.inj h
    unfold State.hostWrite
    split_ifs <;> rfl
  | rd reg =>
    obtain ⟨d, n, hr⟩ := hostRead_frame (P := P) (s := s) reg
    obtain rfl := Option.some.inj h
    rw [hr]
  | ldb sp i b =>
    obtain rfl := Option.some.inj h
    unfold State.hostLoad
    split_ifs
    · rfl
    · cases sp <;> rfl
  | rdb sp i =>
    obtain ⟨d, n, hr⟩ := hostFetch_frame (P := P) (s := s) sp i
    obtain rfl := Option.some.inj h
    rw [hr]
  | push b =>
    obtain ⟨-, rfl⟩ : s.inRoom P = true ∧ { s with inQ := s.inQ ++ [b] } = t := by simpa [hostMove] using h
    rfl
  | pop =>
    cases hq : s.outQ <;> simp [hostMove, hq] at h
    rw [← h]
  | popevt =>
    cases hq : s.evtQ <;> simp [hostMove, hq] at h
    rw [← h]
  | reset => exact absurd rfl hm

theorem bodyOf_pvalid {P : Params} (i : Instr) {s : State} (h : s.status.pvalid = true) :
    (bodyOf P i s).status.pvalid = true := by
  cases i with
  | stretch sel => cases sel <;> exact h
  | genperm sel => cases sel <;> rfl
  | encb | decb | encblk | decblk | abort => exact h
  | encode c => rfl
  | decode c => rcases decodeBody_cases P c s with ⟨p, hd⟩ | hd <;> rw [bodyOf, hd] <;> rfl
  | senc c =>
    rcases stage_cases s with hs | ⟨hs, hb⟩ | ⟨hs, hb⟩
    · rw [bodyOf_senc_start c hs]
      cases c <;> exact h
    · rw [bodyOf_senc_block c hs hb]
      rfl
    · rw [bodyOf_senc_final c hs hb]
      exact h
  | sdec c =>
    rcases stage_cases s with hs | ⟨hs, hb⟩ | ⟨hs, hb⟩
    · rw [bodyOf_sdec_start c hs]
      exact h
    · rw [bodyOf_sdec_block c hs hb]
      cases c <;> rfl
    · rw [bodyOf_sdec_final c hs hb]
      rcases sdecFinal_cases P c s with ⟨p, hf⟩ | hf | hf <;> rw [hf] <;> exact h

theorem accept_pvalid (w : Word) (checks : List Check) (s : State) :
    (s.accept w checks).status.pvalid = s.status.pvalid := by
  cases h : firstError checks with
  | none => rw [State.accept_of_none h]; rfl
  | some e => rw [State.accept_of_some h]; rfl

theorem drain_pvalid (P : Params) (s : State) : (s.drain P).status.pvalid = s.status.pvalid := by
  rcases drainPushes_cases P s.pend s with ⟨-, -, hstatus, -⟩ | ⟨-, -, hstatus, -⟩ <;> rw [State.drain, hstatus]
  split <;> rfl

theorem exec_pvalid {i : Instr} {s t : State} (h : exec i s = .next t) (hv : s.status.pvalid = true) :
    t.status.pvalid = true :=
  exec_cases (fun s t => s.status.pvalid = true → t.status.pvalid = true) i s t h
    (busyWrite := fun _ _ _ hv => by
      rcases busyWriteOf_cases i { s with cmdPort := none } with hw | hw <;> rw [hw] <;> exact hv)
    (accept := fun w _ _ hv => (accept_pvalid w _ _).trans hv)
    (stay := fun _ => id)
    (abort := fun _ _ _ _ _ => id)
    (pushes := fun _ _ _ hv => (drain_pvalid _ s).trans hv)
    (body := fun _ _ _ _ _ _ hv => (drain_pvalid _ _).trans (bodyOf_pvalid i hv))
    hv

/-- Settles O45: of all transitions (`step_cases`) only the reset move clears PVALID. -/
theorem onlyResetClearsPvalid : Obligations.OnlyResetClearsPvalid := by
  intro s t h hv hcleared
  obtain ⟨rest, ⟨w, hw⟩ | ⟨-, he⟩ | ⟨hp, m, hs, hm⟩⟩ := step_cases h
  · have hkept : t.status.pvalid = true := by
      rcases writeCommand_cases hw with ⟨i, -, -, rfl⟩ | ⟨-, rfl⟩ | ⟨-, rfl | rfl⟩
      · exact (accept_pvalid w _ _).trans hv
      all_goals exact hv
    simp [hkept] at hcleared
  · have hkept : t.status.pvalid = true := by
      rcases engineMove_cases he with rfl | ⟨i, -, -, hx⟩
      · exact hv
      · exact exec_pvalid hx hv
    simp [hkept] at hcleared
  · by_cases hreset : m = .reset
    · exact ⟨hp, rest, hreset ▸ hs⟩
    · rw [hostMove_status hm hreset] at hcleared
      simp [hv] at hcleared

end Sys2Proof.Machine

namespace Sys2Proof.Machine

/-! ### The invariant, one rule for each operation -/

/-- The entries of a buffer after a write that ends within the space. -/
theorem writeBytes_inside {P : Params} {sp : Space} {fresh : Nat → Byte} {m : Memory} {a : Nat} {bs : Bytes}
    (h : ∀ c ∈ m, indexExists P sp c.1 = true) (hfits : fits (a + bs.length) (spaceSize P sp)) :
    ∀ c ∈ m.writeBytes fresh a bs, indexExists P sp c.1 = true := by
  intro c hc
  rcases Memory.mem_writeBytes hc with hold | ⟨-, hlt, -⟩
  · exact h c hold
  · exact hasRoom_iff.2 (fits_mono hfits hlt)

theorem fits_some {n m : Nat} : fits n (some m) ↔ n ≤ m := by simp [fits]

namespace State.Inv

variable {P : Params} {s : State}

/-- The registers, IN, ZBUF and the model's own fields that the invariant does not speak of. -/
theorem congr {t : State} (h : s.Inv P)
    (ht : t = { s with opb := t.opb, res := t.res, olen := t.olen, inQ := t.inQ, zbuf := t.zbuf, cmdPort := t.cmdPort,
                       sched := t.sched, rdata := t.rdata, freeReads := t.freeReads }) : t.Inv P := by
  rw [ht]
  exact { buffersCanonical := h.buffersCanonical, buffersInside := h.buffersInside, busyNotDone := h.busyNotDone,
          tables := h.tables, idle := h.idle, running := h.running, stream := h.stream, pktBounded := h.pktBounded,
          oneBlock := h.oneBlock, records := h.records, queues := h.queues }

/-- The running command's checks have passed. -/
theorem checks (h : s.Inv P) (hb : s.status.busy = true) {i : Instr} (hi : decode s.lcmd = .ok i) :
    firstError (checksOf P i s) = none := by
  obtain ⟨-, -, j, hj, hchecks, -⟩ := h.running hb
  obtain rfl : j = i := Except.ok.inj (hj.symm.trans hi)
  exact hchecks

theorem finish (h : s.Inv P) (hb : s.status.busy = true) : s.finish.Inv P :=
  { h with idle := fun hidle => absurd (hb.symm.trans hidle) (by decide) }

/-- Pushes whose records are well formed and that, with C = 0, come from one block. -/
theorem emit (h : s.Inv P) (hb : s.status.busy = true) {ps : List Push} (hrecords : ∀ r, Push.record r ∈ ps → r.ok)
    (hblock : ∀ i, decode s.lcmd = .ok i → i = .senc false ∨ i = .sdec false →
      (pushedBytes (s.pend ++ ps)).length ≤ blockSize) : (s.emit ps).Inv P :=
  { h with
    idle := fun hidle => absurd (hb.symm.trans hidle) (by decide)
    oneBlock := hblock
    records := ⟨h.records.1, fun r hr => (List.mem_append.1 hr).elim (h.records.2 r) (hrecords r)⟩ }

theorem raise (h : s.Inv P) (e : ErrCode) : (s.raise e).Inv P :=
  { h with
    busyNotDone := nofun
    idle := fun _ => ⟨rfl, rfl, rfl, rfl⟩
    running := nofun
    stream := nofun
    oneBlock := fun _ _ _ => Nat.zero_le _
    records := ⟨h.records.1, nofun⟩ }

theorem abortStep (h : s.Inv P) (hp : s.pend = []) (hf : s.fin = false) : s.abortStep.Inv P :=
  { h with
    busyNotDone := nofun
    idle := fun _ => ⟨rfl, hp, hf, rfl⟩
    running := nofun
    stream := nofun }

theorem abortRequested (h : s.Inv P) (hb : s.status.busy = true) : (abortWhileBusy s).Inv P :=
  { h with idle := fun hidle => absurd (hb.symm.trans hidle) (by decide) }

theorem complete (h : s.Inv P) (hp : s.pend = []) : s.complete.Inv P :=
  { h with
    busyNotDone := nofun
    idle := fun _ => ⟨rfl, hp, rfl, rfl⟩
    running := nofun
    stream := nofun }

/-- Pushes made, or bytes and records taken by the host: what still waits is what waited last. -/
theorem pushes (h : s.Inv P) {out : Bytes} {evt : List Progress} {ps : List Push} (hps : ps <:+ s.pend)
    (hevt : ∀ r ∈ evt, r.ok) (hqueues : fits out.length P.outDepth ∧ fits evt.length P.evtDepth) :
    { s with outQ := out, evtQ := evt, pend := ps }.Inv P :=
  { h with
    idle := fun hidle => by
      obtain ⟨hstarted, hp, hf, ha⟩ := h.idle hidle
      exact ⟨hstarted, List.suffix_nil.1 (hp ▸ hps), hf, ha⟩
    oneBlock := fun i hi hstream => by
      obtain ⟨done, hdone⟩ := hps
      have hblock := h.oneBlock i hi hstream
      rw [← hdone, pushedBytes_append, List.length_append] at hblock
      exact (Nat.le_add_left _ _).trans hblock
    records := ⟨hevt, fun r hr => h.records.2 r (hps.subset hr)⟩
    queues := hqueues }

end State.Inv

theorem mem_pushedRecords {r : Progress} {ps : List Push} : r ∈ pushedRecords ps ↔ Push.record r ∈ ps := by
  induction ps with
  | nil => simp
  | cons p ps ih => cases p <;> simp [pushedRecords, ih]

/-- A drain moves pushes to the queues; it completes the command when none is left and the step ends it. -/
theorem drain_cases (P : Params) (s : State) :
    let u : State := { s with outQ := (s.drain P).outQ, evtQ := (s.drain P).evtQ, pend := (s.drain P).pend }
    (u.pend = [] ∧ s.drain P = if s.fin then u.complete else u) ∨ s.drain P = u := by
  intro u
  rcases drainPushes_cases P s.pend s with ⟨hp, hf, hstatus, hstarted⟩ | ⟨-, hf, hstatus, hstarted⟩
  · refine .inl ⟨hp, ?_⟩
    refine (s.drain_frame P).trans ?_
    rw [State.drain, hf, hstatus, hstarted]
    cases hfin : s.fin
    · simp [u, State.drain, hfin]
    · rfl
  · refine .inr ((s.drain_frame P).trans ?_)
    rw [State.drain, hf, hstatus, hstarted]
    rfl

namespace State.Inv

variable {P : Params} {s : State}

theorem drain (h : s.Inv P) : (s.drain P).Inv P := by
  have hevt (r : Progress) (hr : r ∈ (s.drain P).evtQ) : r.ok := by
    have hmem : r ∈ s.evtQ ++ pushedRecords s.pend := by
      rw [← (drainPushes_conserves P s.pend s).2]
      exact List.mem_append_left _ hr
    exact (List.mem_append.1 hmem).elim (h.records.1 r) fun hp => h.records.2 r (mem_pushedRecords.1 hp)
  have hu := h.pushes (drainPushes_pend_sub P s.pend s) hevt (drainPushes_queues P s.pend s h.queues)
  rcases drain_cases P s with ⟨hp, hd⟩ | hd
  · rw [hd]
    split
    · exact hu.complete hp
    · exact hu
  · rw [hd]
    exact hu

/-! Acceptance (44_control.md R240) -/

theorem latch (h : s.Inv P) (hb : s.status.busy = false) (w : Word) : (s.latch w).Inv P :=
  { h with
    busyNotDone := fun _ => rfl
    running := fun hbusy => absurd (hb.symm.trans hbusy) (by decide)
    oneBlock := fun _ _ _ => by
      obtain ⟨-, hp, -⟩ := h.idle hb
      simp [hp] }

theorem accept (h : s.Inv P) (hb : s.status.busy = false) {w : Word} {i : Instr} (hi : decode w = .ok i) :
    (s.accept w (checksOf P i s)).Inv P := by
  cases hc : firstError (checksOf P i s) with
  | some e =>
    rw [State.accept_of_some hc]
    exact (h.latch hb w).raise e
  | none =>
    rw [State.accept_of_none hc]
    obtain ⟨hstarted, -⟩ := h.idle hb
    exact { h.latch hb w with
            busyNotDone := fun _ => rfl
            idle := nofun
            running := fun _ => ⟨rfl, rfl, i, hi, (checksOf_congr P i s _ rfl rfl rfl rfl).symm ▸ hc,
              fun hs => absurd (hstarted.symm.trans hs) (by decide)⟩ }

end State.Inv

/-! The tables and BKEY (10_state.md R35 to R38) -/

/-- The checks ask of PVALID only that it be set. -/
theorem checks_pass_of_pvalid {P : Params} {i : Instr} {s u : State} (hk : u.klen = s.klen) (hm : u.mlen = s.mlen)
    (hb : u.bklen = s.bklen) (hv : u.status.pvalid = true) (h : firstError (checksOf P i s) = none) :
    firstError (checksOf P i u) = none := by
  cases hs : s.status.pvalid with
  | true => rwa [checksOf_congr P i s u hk hm hb (hv.trans hs.symm)]
  | false =>
    cases i with
    | encb | decb => simp [checksOf, byteChecks, firstError, hs] at h
    | encblk | decblk => simp [checksOf, blockChecks, firstError_eq_none, hs] at h
    | stretch | genperm | encode | decode | senc | sdec | abort =>
      simpa only [checksOf, stretchChecks, genpermChecks, keyedChecks, hk, hm, hb] using h

theorem permTable_loadTables (P : Params) (s : State) {t : Bytes × Bytes} (h : t.1.length = alphabet) :
    (s.loadTables P t).permTable P = t.1 := by
  rw [State.permTable, State.loadTables_perm, ← h]
  exact Memory.readBytes_writeBytes _ 0 t.1

theorem ipermTable_loadTables (P : Params) (s : State) {t : Bytes × Bytes} (h : t.2.length = alphabet) :
    (s.loadTables P t).ipermTable P = t.2 := by
  rw [State.ipermTable, State.loadTables_iperm, ← h]
  exact Memory.readBytes_writeBytes _ 0 t.2

namespace State.Inv

variable {P : Params} {s : State}

theorem loadTables (h : s.Inv P) (seedKey : Bytes) : (s.loadTables P (generate P seedKey)).Inv P := by
  obtain ⟨hplen, hqlen, -⟩ := id (generate_inverse P seedKey)
  have hpfits : fits (0 + (generate P seedKey).1.length) (spaceSize P .perm) := fits_some.2 (by omega)
  have hqfits : fits (0 + (generate P seedKey).2.length) (spaceSize P .iperm) := fits_some.2 (by omega)
  exact { h with
    buffersCanonical := fun sp => match sp with
      | .key => h.buffersCanonical .key
      | .bkey => h.buffersCanonical .bkey
      | .perm => Memory.wf_writeBytes (h.buffersCanonical .perm) 0 _
      | .iperm => Memory.wf_writeBytes (h.buffersCanonical .iperm) 0 _
    buffersInside := fun sp => match sp with
      | .key => h.buffersInside .key
      | .bkey => h.buffersInside .bkey
      | .perm => writeBytes_inside (h.buffersInside .perm) hpfits
      | .iperm => writeBytes_inside (h.buffersInside .iperm) hqfits
    tables := fun _ => by
      rw [permTable_loadTables P s hplen, ipermTable_loadTables P s hqlen]
      exact generate_inverse P seedKey
    running := fun hbusy => by
      obtain ⟨herr, haborted, i, hi, hchecks, hstream⟩ := h.running hbusy
      exact ⟨herr, haborted, i, hi, checks_pass_of_pvalid (s := s) rfl rfl rfl rfl hchecks, hstream⟩ }

/-- BKEY and BKLEN written by a command whose checks do not read BKLEN. -/
theorem bkey (h : s.Inv P) {bs : Bytes} {n : Nat} (hbs : bs.length ≤ blockSize)
    (hchecks : ∀ i, decode s.lcmd = .ok i → checksOf P i { s with bklen := n } = checksOf P i s) :
    { s with bkey := s.bkey.writeBytes (s.fresh P .bkey) 0 bs, bklen := n }.Inv P :=
  { h with
    buffersCanonical := fun sp => match sp with
      | .key => h.buffersCanonical .key
      | .bkey => Memory.wf_writeBytes (h.buffersCanonical .bkey) 0 _
      | .perm => h.buffersCanonical .perm
      | .iperm => h.buffersCanonical .iperm
    buffersInside := fun sp => match sp with
      | .key => h.buffersInside .key
      | .bkey => writeBytes_inside (h.buffersInside .bkey) (fits_some.2 (by omega))
      | .perm => h.buffersInside .perm
      | .iperm => h.buffersInside .iperm
    running := fun hbusy => by
      obtain ⟨herr, haborted, i, hi, hpass, hstream⟩ := h.running hbusy
      exact ⟨herr, haborted, i, hi, (hchecks i hi ▸ hpass :), hstream⟩ }

/-! The key chain (43_streampipeline.md R201) -/

theorem streamStart (h : s.Inv P) (hb : s.status.busy = true) {i : Instr} (hi : decode s.lcmd = .ok i)
    (hs : isStream i = true) (hk : 1 ≤ s.klen) (len : Nat) : (s.streamStart len).Inv P :=
  { h with
    idle := fun hidle => absurd (hb.symm.trans hidle) (by decide)
    running := fun _ => by
      obtain ⟨herr, haborted, -⟩ := h.running hb
      exact ⟨herr, haborted, i, hi, h.checks hb hi, fun _ => hs⟩
    stream := fun _ => ⟨Nat.zero_le _, rfl, rfl, rfl, (State.keyBytes_length P s).symm ▸ hk⟩
    pktBounded := nofun }

/-- The chain moves one block on: PKT is the tail of the block key. -/
theorem advance (h : s.Inv P) (hs : s.started = true) (hb : s.bidx < s.totb) (hk : 1 ≤ s.klen) :
    { s with pkt := .tail (keyTail (stretch P (s.chainValue P) blockSize) s.klen), bidx := s.bidx + 1 }.Inv P := by
  obtain ⟨-, htotb, hintv, hchain, hpos⟩ := h.stream hs
  have hbk : (stretch P (s.chainValue P) blockSize).length = 8192 := stretch_length P hpos _
  have htail : (keyTail (stretch P (s.chainValue P) blockSize) s.klen).length = min s.klen 8192 := keyTail_length hbk _
  have hnext : keyTail (stretch P (s.chainValue P) blockSize) s.klen = chainKey P (s.keyBytes P) (s.bidx + 1) := by
    rw [chainKey_succ, blockKeyOf, hchain, State.keyBytes_length]
  exact { h with
    stream := fun _ => ⟨hb, htotb, hintv, hnext, by change 1 ≤ (keyTail _ _).length; omega⟩
    pktBounded := fun bs hbs => by
      obtain rfl : keyTail _ _ = bs := PriorKeyTail.tail.inj hbs
      rw [htail]
      exact Nat.min_le_right _ _ }

end State.Inv

/-! ### Every body keeps the invariant -/

theorem periodicRecord_ok {i totb : Nat} (h : i < totb) : (periodicRecord i totb).ok :=
  ⟨Nat.one_le_of_lt h, h.le⟩

theorem finalRecord_ok (totb : Nat) : (finalRecord totb).ok := ⟨le_rfl, le_rfl⟩

theorem not_record_pushBytes {r : Progress} {bs : Bytes} : Push.record r ∉ pushBytes bs := by
  simp [pushBytes]

/-- The checks of the commands with a key in KEY pass only with a key. -/
theorem klen_pos_of_keyedChecks {P : Params} {s : State} (h : firstError (keyedChecks P s) = none) : 1 ≤ s.klen := by
  simp [keyedChecks, firstError_eq_none] at h
  omega

section BodyInv

variable {P : Params} {i : Instr} {s : State}

/-- One block's due record. -/
theorem dueRecords_ok (hb : s.bidx < s.totb) {r : Progress} (hr : Push.record r ∈ s.dueRecords) : r.ok := by
  unfold State.dueRecords at hr
  split at hr
  · obtain rfl : r = periodicRecord s.bidx s.totb := by simpa using hr
    exact periodicRecord_ok hb
  · simp at hr

theorem pushedBytes_dueRecords (s : State) : pushedBytes s.dueRecords = [] := by
  rw [State.dueRecords_eq, pushedBytes_records]

/-- A block step on SENC's and SDEC's common part: BKEY, the tables and the chain. -/
theorem State.Inv.nextBlock (h : s.Inv P) (hi : decode s.lcmd = .ok i) (hstream : isStream i = true)
    (hs : s.started = true) (hb : s.bidx < s.totb) (hk : 1 ≤ s.klen) :
    { State.loadBlock P (stretch P (s.chainValue P) blockSize) s with bidx := s.bidx + 1 }.Inv P := by
  obtain ⟨-, -, -, -, hpos⟩ := h.stream hs
  have hlen : (stretch P (s.chainValue P) blockSize).length ≤ blockSize := (stretch_length P hpos _).le
  refine ((h.advance hs hb hk).bkey (n := blockSize) hlen fun j hj => ?_).loadTables (stretch P (s.chainValue P) blockSize)
  obtain rfl : j = i := Except.ok.inj (hj.symm.trans hi)
  cases j with
  | senc c | sdec c => rfl
  | stretch | genperm | encb | decb | encblk | decblk | encode | decode | abort => cases hstream

/-- Pushes of a command other than SENC and SDEC. -/
theorem State.Inv.emit_of_not_stream (h : s.Inv P) (hbusy : s.status.busy = true) (hi : decode s.lcmd = .ok i)
    (hstream : isStream i = false) (bs : Bytes) : (s.emit (pushBytes bs)).Inv P :=
  h.emit hbusy (fun _ hr => absurd hr not_record_pushBytes) fun j hj hsd => by
    obtain rfl : j = i := Except.ok.inj (hj.symm.trans hi)
    rcases hsd with rfl | rfl <;> cases hstream

theorem sencBody_inv {c : Bool} (h : s.Inv P) (hbusy : s.status.busy = true) (hi : decode s.lcmd = .ok (.senc c))
    (hp : s.pend = []) : (bodyOf P (.senc c) s).Inv P := by
  have hk : 1 ≤ s.klen := klen_pos_of_keyedChecks (h.checks hbusy hi)
  rcases stage_cases s with hs | ⟨hs, hb⟩ | ⟨hs, hb⟩
  · rw [bodyOf_senc_start c hs]
    cases c with
    | false => exact h.streamStart hbusy hi rfl hk _
    | true =>
      exact State.Inv.streamStart (s := { s.dropIn s.mlen with zbuf := P.compress (s.inBytes s.mlen) }) (h.congr rfl) hbusy hi
        rfl hk _
  · rw [bodyOf_senc_block c hs hb]
    have hnext := (h.nextBlock hi rfl hs hb hk).congr
      (t := { State.loadBlock P (stretch P (s.chainValue P) blockSize) (if c then s else s.dropIn s.blockLen) with
        olen := s.olen + s.blockLen, bidx := s.bidx + 1 }) (by cases c <;> rfl)
    refine hnext.emit (by cases c <;> exact hbusy) (fun r hr => ?_) fun j _ _ => ?_
    · exact (List.mem_append.1 hr).elim (fun hr => absurd hr not_record_pushBytes) (dueRecords_ok hb)
    · cases c <;> simp [hp, pushedBytes_dueRecords, State.blockLen, State.inBytes]
  · rw [bodyOf_senc_final c hs hb]
    refine (h.emit hbusy (fun r hr => ?_) fun j _ _ => ?_).finish hbusy
    · obtain rfl : r = finalRecord s.totb := by simpa using hr
      exact finalRecord_ok _
    · simp [hp]

theorem sdecBody_inv {c : Bool} (h : s.Inv P) (hbusy : s.status.busy = true) (hi : decode s.lcmd = .ok (.sdec c))
    (hp : s.pend = []) : (bodyOf P (.sdec c) s).Inv P := by
  have hk : 1 ≤ s.klen := klen_pos_of_keyedChecks (h.checks hbusy hi)
  rcases stage_cases s with hs | ⟨hs, hb⟩ | ⟨hs, hb⟩
  · rw [bodyOf_sdec_start c hs]
    exact State.Inv.streamStart (s := { s with zbuf := [] }) (h.congr rfl) hbusy hi rfl hk _
  · rw [bodyOf_sdec_block c hs hb]
    have hnext := h.nextBlock hi rfl hs hb hk
    cases c with
    | true =>
      refine State.Inv.emit (hnext.congr rfl) (by exact hbusy) (fun r hr => dueRecords_ok hb hr) fun j _ _ => ?_
      simp [hp, pushedBytes_dueRecords]
    | false =>
      refine State.Inv.emit (hnext.congr rfl) (by exact hbusy) (fun r hr => ?_) fun j _ _ => ?_
      · exact (List.mem_append.1 hr).elim (fun hr => absurd hr not_record_pushBytes) (dueRecords_ok hb)
      · simp [hp, pushedBytes_dueRecords, State.blockLen, State.inBytes]
  · rw [bodyOf_sdec_final c hs hb]
    have hrecord {r : Progress} (hr : Push.record r ∈ [Push.record (finalRecord s.totb)]) : r.ok := by
      obtain rfl : r = finalRecord s.totb := by simpa using hr
      exact finalRecord_ok _
    cases c with
    | false => exact (h.emit hbusy (fun _ => hrecord) fun j _ _ => by simp [hp]).finish hbusy
    | true =>
      rcases sdecFinal_cases P true s with ⟨p, hf⟩ | hf | hf <;> rw [hf]
      · refine State.Inv.finish (State.Inv.emit (h.congr rfl) (by exact hbusy) (fun r hr => ?_) fun j hj hsd => ?_) hbusy
        · exact (List.mem_append.1 hr).elim (fun hr => absurd hr not_record_pushBytes) hrecord
        · obtain rfl : j = .sdec true := Except.ok.inj (hj.symm.trans hi)
          rcases hsd with hsd | hsd <;> cases hsd
      · exact (h.emit hbusy (fun _ => hrecord) fun j _ _ => by simp [hp]).finish hbusy
      · exact h.raise _

theorem stretchBody_inv {sel : Bool} (h : s.Inv P) (hbusy : s.status.busy = true) (hi : decode s.lcmd = .ok (.stretch sel)) :
    (bodyOf P (.stretch sel) s).Inv P := by
  have hchecks := h.checks hbusy hi
  cases sel with
  | false => exact State.Inv.finish (State.Inv.emit_of_not_stream (h.congr rfl) (by exact hbusy) (by exact hi) rfl _) hbusy
  | true =>
    have hlen : s.mlen ≤ blockSize := by
      simp [checksOf, stretchChecks, firstError_eq_none] at hchecks
      omega
    refine State.Inv.finish (h.bkey ((List.length_take_le _ _).trans hlen) fun j hj => ?_) hbusy
    obtain rfl : j = .stretch true := Except.ok.inj (hj.symm.trans hi)
    rfl

/-- Between steps a running command's body keeps the invariant. -/
theorem bodyOf_inv (h : s.Inv P) (hbusy : s.status.busy = true) (hi : decode s.lcmd = .ok i) (hp : s.pend = []) :
    (bodyOf P i s).Inv P := by
  cases i with
  | stretch sel => exact stretchBody_inv h hbusy hi
  | genperm sel =>
    cases sel with
    | false => exact ((h.congr (t := s.dropIn s.mlen) rfl).loadTables _).finish hbusy
    | true => exact (h.loadTables _).finish hbusy
  | encb | decb => exact State.Inv.finish (h.congr rfl) hbusy
  | encblk | decblk => exact State.Inv.finish (State.Inv.emit_of_not_stream (h.congr rfl) (by exact hbusy) (by exact hi) rfl _) hbusy
  | encode c =>
    have htables := (h.congr (t := s.dropIn s.mlen) rfl).loadTables (stretch P (s.keyBytes P) (packed P c (s.inBytes s.mlen)).length)
    exact State.Inv.finish (State.Inv.emit_of_not_stream (htables.congr rfl) (by exact hbusy) (by exact hi) rfl _) hbusy
  | decode c =>
    have htables := (h.congr (t := s.dropIn s.mlen) rfl).loadTables (stretch P (s.keyBytes P) s.mlen)
    rcases decodeBody_cases P c s with ⟨p, hd⟩ | hd <;> rw [bodyOf, hd]
    · exact State.Inv.finish (State.Inv.emit_of_not_stream (htables.congr rfl) (by exact hbusy) (by exact hi) rfl _) hbusy
    · exact htables.raise _
  | senc c => exact sencBody_inv h hbusy hi hp
  | sdec c => exact sdecBody_inv h hbusy hi hp
  | abort => exact h.finish hbusy

end BodyInv

theorem not_pushing {s : State} (h : s.pushing = false) : s.pend = [] ∧ s.fin = false := by
  simpa [State.pushing] using h

/-- One step of the running command keeps the invariant. -/
theorem exec_inv {i : Instr} {s t : State} (h : s.Inv Config.params) (hp : s.cmdPort = none)
    (hi : decode s.lcmd = .ok i) (hx : exec i s = .next t) : t.Inv Config.params :=
  exec_cases (fun s t => s.Inv Config.params → s.cmdPort = none → decode s.lcmd = .ok i → t.Inv Config.params) i s t hx
    (busyWrite := fun _ hw _ _ hp _ => absurd (hw.symm.trans hp) nofun)
    (accept := fun _ hw _ _ hp _ => absurd (hw.symm.trans hp) nofun)
    (stay := fun _ h _ _ => h)
    (abort := fun _ _ hpush _ _ h _ _ => h.abortStep (not_pushing hpush).1 (not_pushing hpush).2)
    (pushes := fun _ _ _ h _ _ => h.drain)
    (body := fun _ hbusy hpush _ _ _ h _ hi => (bodyOf_inv h hbusy hi (not_pushing hpush).1).drain)
    h hp hi

theorem engineMove_inv {s t : State} (h : s.Inv Config.params) (hp : s.cmdPort = none) (hx : engineMove s = .next t) :
    t.Inv Config.params := by
  rcases engineMove_cases hx with rfl | ⟨i, -, hi, hexec⟩
  · exact h
  · exact exec_inv h hp hi hexec

theorem writeCommand_inv {w : Word} {s t : State} (h : s.Inv Config.params) (hx : writeCommand w s = .next t) :
    t.Inv Config.params := by
  have hu : { s with cmdPort := none }.Inv Config.params := h.congr rfl
  rcases writeCommand_cases hx with ⟨i, hi, hb, rfl⟩ | ⟨hb, rfl⟩ | ⟨hb, rfl | rfl⟩
  · exact hu.accept hb hi
  · exact (hu.latch hb w).raise _
  · exact hu
  · exact hu.abortRequested hb

/-! ### The host's moves keep the invariant -/

/-- The state that a reset leaves, whatever the model's own fields are. -/
theorem reset_inv (P : Params) (q : List Move) (d : ReadData) (r n : Nat) :
    { State.reset with sched := q, rdata := d, resets := r, freeReads := n }.Inv P where
  buffersCanonical sp := by cases sp <;> exact Memory.wf_nil
  buffersInside sp := by cases sp <;> exact nofun
  busyNotDone := nofun
  tables := nofun
  idle _ := ⟨rfl, rfl, rfl, rfl⟩
  running := nofun
  stream := nofun
  pktBounded bs h := by
    obtain rfl : [] = bs := PriorKeyTail.tail.inj h
    exact Nat.zero_le _
  oneBlock _ _ _ := Nat.zero_le _
  records := ⟨nofun, nofun⟩
  queues := ⟨fun _ _ => Nat.zero_le _, fun _ _ => Nat.zero_le _⟩

/-- Settles O55: `reset_inv` for the first reset. -/
theorem invariantHoldsAtReset : Obligations.InvariantHoldsAtReset := reset_inv Config.params [] .nothing 0 0

section HostInv

variable {P : Params} {s : State}

/-- While idle no command's checks or key bytes rest on the lengths. -/
theorem State.Inv.lengths (h : s.Inv P) (hb : s.status.busy = false) (k m b : Nat) :
    { s with klen := k, mlen := m, bklen := b }.Inv P :=
  { h with
    running := fun hbusy => absurd (hb.symm.trans hbusy) (by decide)
    stream := fun hs => absurd ((h.idle hb).1.symm.trans hs) (by decide) }

theorem hostWrite_inv (h : s.Inv P) (reg v : Nat) : (s.hostWrite reg v).Inv P := by
  unfold State.hostWrite
  split_ifs with hb
  · exact h
  all_goals have hidle : s.status.busy = false := by simpa using hb
  · exact h.lengths hidle v s.mlen s.bklen
  · exact h.lengths hidle s.klen v s.bklen
  · exact h.lengths hidle s.klen s.mlen v
  · exact h.congr rfl
  · exact h

/-- While idle the key chain of no command rests on KEY. -/
theorem State.Inv.loads (h : s.Inv P) (hb : s.status.busy = false) {k b : Memory}
    (hk : k.wf (s.fresh P .key) ∧ ∀ c ∈ k, indexExists P .key c.1 = true)
    (hbk : b.wf (s.fresh P .bkey) ∧ ∀ c ∈ b, indexExists P .bkey c.1 = true) : { s with key := k, bkey := b }.Inv P :=
  { h with
    buffersCanonical := fun sp => match sp with
      | .key => hk.1
      | .bkey => hbk.1
      | .perm => h.buffersCanonical .perm
      | .iperm => h.buffersCanonical .iperm
    buffersInside := fun sp => match sp with
      | .key => hk.2
      | .bkey => hbk.2
      | .perm => h.buffersInside .perm
      | .iperm => h.buffersInside .iperm
    stream := fun hs => absurd ((h.idle hb).1.symm.trans hs) (by decide) }

theorem hostLoad_inv (h : s.Inv P) (sp : Space) (i : Nat) (b : Byte) : (s.hostLoad P sp i b).Inv P := by
  by_cases hskip : s.status.busy = true ∨ indexExists P sp i = false
  · rcases hskip with hb | hi
    · rwa [hostLoad_busy hb]
    · rwa [hostLoad_absent hi]
  · obtain ⟨hb, hi⟩ : s.status.busy = false ∧ indexExists P sp i = true := by simpa using hskip
    have hkept (sp' : Space) : (s.buffer sp').wf (s.fresh P sp') ∧ ∀ c ∈ s.buffer sp', indexExists P sp' c.1 = true :=
      ⟨h.buffersCanonical sp', h.buffersInside sp'⟩
    have hwritten : ((s.buffer sp).write (s.fresh P sp) i b).wf (s.fresh P sp) ∧
        ∀ c ∈ (s.buffer sp).write (s.fresh P sp) i b, indexExists P sp c.1 = true :=
      ⟨Memory.wf_write (h.buffersCanonical sp) i b, writeBytes_inside (h.buffersInside sp) (hasRoom_iff.1 hi)⟩
    rw [hostLoad_idle hb hi]
    cases sp with
    | key => exact h.loads hb hwritten (hkept .bkey)
    | bkey => exact h.loads hb (hkept .key) hwritten
    | perm | iperm => exact h.loads hb (hkept .key) (hkept .bkey)

theorem hostMove_inv {m : HostMove} {t : State} (h : s.Inv P) (hm : hostMove P m s = some t) : t.Inv P := by
  cases m with
  | wr reg v =>
    obtain rfl := Option.some.inj hm
    exact hostWrite_inv h reg v
  | rd reg =>
    obtain rfl := Option.some.inj hm
    obtain ⟨d, n, hr⟩ := hostRead_frame (P := P) (s := s) reg
    rw [hr]
    exact h.congr rfl
  | ldb sp i b =>
    obtain rfl := Option.some.inj hm
    exact hostLoad_inv h sp i b
  | rdb sp i =>
    obtain rfl := Option.some.inj hm
    obtain ⟨d, n, hr⟩ := hostFetch_frame (P := P) (s := s) sp i
    rw [hr]
    exact h.congr rfl
  | push b =>
    obtain ⟨-, rfl⟩ : s.inRoom P = true ∧ { s with inQ := s.inQ ++ [b] } = t := by simpa [hostMove] using hm
    exact h.congr rfl
  | pop =>
    cases hq : s.outQ with
    | nil => simp [hostMove, hq] at hm
    | cons b rest =>
      obtain rfl : { s with outQ := rest, rdata := .byte b } = t := by simpa [hostMove, hq] using hm
      have hout : fits rest.length P.outDepth := fits_mono h.queues.1 (by simp [hq])
      exact (h.pushes List.suffix_rfl h.records.1 ⟨hout, h.queues.2⟩).congr rfl
  | popevt =>
    cases hq : s.evtQ with
    | nil => simp [hostMove, hq] at hm
    | cons r rest =>
      obtain rfl : { s with evtQ := rest, rdata := .record r } = t := by simpa [hostMove, hq] using hm
      have hevt : fits rest.length P.evtDepth := fits_mono h.queues.2 (by simp [hq])
      exact (h.pushes List.suffix_rfl (fun r' hr => h.records.1 r' (by simp [hq, hr])) ⟨h.queues.1, hevt⟩).congr rfl
  | reset =>
    obtain rfl := Option.some.inj hm
    exact reset_inv P _ _ _ _

end HostInv

/-- Settles O56: every transition of `step_cases` is an operation with its own rule. -/
theorem everyStepKeepsTheInvariant : Obligations.EveryStepKeepsTheInvariant := by
  intro s t h hx
  have hu (rest : List Move) : { s with sched := rest }.Inv Config.params := h.congr rfl
  obtain ⟨rest, ⟨w, hw⟩ | ⟨hp, he⟩ | ⟨-, m, -, hm⟩⟩ := step_cases hx
  · exact writeCommand_inv (hu rest) hw
  · exact engineMove_inv (hu rest) hp he
  · exact hostMove_inv (hu rest) hm

/-! ### Progress (spec/60_exceptions.md section 4) -/

theorem writeCommand_proceeds (w : Word) (s : State) : Proceeds (writeCommand w s) := by
  cases hd : decode w with
  | ok i => exact ⟨_, (writeCommand_legal hd).trans (exec_eq_commandUnder i _)⟩
  | error e => exact ⟨State.illegalWrite w { s with cmdPort := none }, by simp only [writeCommand, hd]⟩

/-- With a legal command in LCMD when busy, the engine's move is one of `exec`. -/
theorem engineMove_proceeds {s : State} (h : s.Inv Config.params) : Proceeds (engineMove s) := by
  cases hb : s.status.busy with
  | false => exact ⟨s, engineMove_idle hb⟩
  | true =>
    obtain ⟨-, -, i, hi, -⟩ := h.running hb
    exact ⟨_, (engineMove_busy hb hi).trans (exec_eq_commandUnder i s)⟩

/-- Settles O57: a busy engine of the invariant has a legal command, and nothing else can stop a step. -/
theorem invariantStatesProceed : Obligations.InvariantStatesProceed := by
  intro s h
  have hu (rest : List Move) : { s with sched := rest }.Inv Config.params := h.congr rfl
  rcases Option.eq_none_or_eq_some s.cmdPort with hp | ⟨w, hp⟩
  · rcases hs : s.sched with _ | ⟨_ | m, rest⟩
    · rw [step_of_nil hp hs]
      exact engineMove_proceeds h
    · rw [step_of_engine hp hs]
      exact engineMove_proceeds (hu rest)
    · by_cases hm : ∃ v, m = .wr 0 v
      · obtain ⟨v, rfl⟩ := hm
        rw [step_of_cmdWrite hp hs]
        exact writeCommand_proceeds _ _
      · cases hmove : hostMove Config.params m { s with sched := rest } with
        | none =>
          rw [step_of_hostWait hp hs hmove]
          exact engineMove_proceeds h
        | some u => exact ⟨u, step_of_hostMove hp hs (fun v hv => hm ⟨v, hv⟩) hmove⟩
  · rw [step_of_cmdPort hp]
    exact writeCommand_proceeds w s

end Sys2Proof.Machine

namespace Sys2Proof.Machine

/-! ### Runs with a host that drains (spec/20_memory.md R71, R73) -/

/-- Some moves of the engine lead from `s` to `t`, and the host that drains OUT and EVT after each receives `bs` and `rs`. -/
def Delivers (s t : State) (bs : Bytes) (rs : List Progress) : Prop :=
  ∃ k, ∀ out evt, drainedRun k s out evt = some (t, out ++ bs, evt ++ rs)

theorem drainedRun_succ {s t : State} (h : engineMove s = .next t) (k : Nat) (out : Bytes) (evt : List Progress) :
    drainedRun (k + 1) s out evt = drainedRun k t.handOver (out ++ t.outQ) (evt ++ t.evtQ) := by
  simp [drainedRun, h]

theorem drainedRun_add {k l : Nat} {s t : State} {out out' : Bytes} {evt evt' : List Progress}
    (h : drainedRun k s out evt = some (t, out', evt')) : drainedRun (k + l) s out evt = drainedRun l t out' evt' := by
  induction k generalizing s out evt with
  | zero =>
    obtain ⟨rfl, rfl, rfl⟩ : s = t ∧ out = out' ∧ evt = evt' := by simpa [drainedRun] using h
    rw [Nat.zero_add]
  | succ k ih =>
    rw [Nat.add_right_comm]
    cases hm : engineMove s with
    | next u =>
      rw [drainedRun_succ hm] at h ⊢
      exact ih h
    | fault r | refused r => simp [drainedRun, hm] at h

namespace Delivers

theorem refl (s : State) : Delivers s s [] [] := ⟨0, fun out evt => by simp [drainedRun]⟩

theorem trans {s t u : State} {bs bs' : Bytes} {rs rs' : List Progress} (hst : Delivers s t bs rs)
    (htu : Delivers t u bs' rs') : Delivers s u (bs ++ bs') (rs ++ rs') := by
  obtain ⟨k, hk⟩ := hst
  obtain ⟨l, hl⟩ := htu
  exact ⟨k + l, fun out evt => by rw [drainedRun_add (hk out evt), hl, List.append_assoc, List.append_assoc]⟩

theorem move {s t : State} (h : engineMove s = .next t) : Delivers s t.handOver t.outQ t.evtQ :=
  ⟨1, fun out evt => by rw [drainedRun_succ h, drainedRun]⟩

/-- A run of a part for each number below `n`. -/
theorem iterate {Q : Nat → State → Prop} {f : Nat → Bytes} {g : Nat → List Progress} (n : Nat)
    (hstep : ∀ j u, j < n → Q j u → ∃ v, Q (j + 1) v ∧ Delivers u v (f j) (g j)) {s : State} (h : Q 0 s) :
    ∃ t, Q n t ∧ Delivers s t ((List.range n).flatMap f) ((List.range n).flatMap g) := by
  induction n with
  | zero => exact ⟨s, h, refl s⟩
  | succ n ih =>
    obtain ⟨u, hu, hsu⟩ := ih fun j u hj => hstep j u (hj.trans (Nat.lt_succ_self n))
    obtain ⟨v, hv, huv⟩ := hstep n u (Nat.lt_succ_self n) hu
    refine ⟨v, hv, ?_⟩
    simpa only [List.range_succ, List.flatMap_append, List.flatMap_singleton] using hsu.trans huv

end Delivers

/-! ### A drained host lets every step make its pushes -/

section Drained

variable {P : Params} {u : State}

/-- When all pushes are made, the step has settled. -/
theorem handOver_drain_of_made (hout : u.outQ = []) (hevt : u.evtQ = []) (hmade : (u.drain P).pend = []) :
    (u.drain P).handOver = u.settle [] [] := by
  rcases drainPushes_cases P u.pend u with ⟨-, hfin, hstatus, hstarted⟩ | ⟨hne, -⟩
  · rw [u.drain_frame P, hmade]
    simp only [State.drain, hfin, hstatus, hstarted, State.settle, State.handOver, hout, hevt, List.append_nil]
    rfl
  · exact absurd hmade hne

/-- When some still wait, the rest of the state is as it was. -/
theorem handOver_drain_of_held (hout : u.outQ = []) (hevt : u.evtQ = []) (hheld : (u.drain P).pend ≠ []) :
    (u.drain P).handOver = { u with pend := (u.drain P).pend } := by
  rcases drainPushes_cases P u.pend u with ⟨hmade, -⟩ | ⟨-, hfin, hstatus, hstarted⟩
  · exact absurd hmade hheld
  · rw [u.drain_frame P]
    simp only [State.drain, hfin, hstatus, hstarted, State.handOver]
    rw [← hout, ← hevt]

/-- Into empty queues at least one push is made. -/
theorem drain_pend_length_lt (hout : u.outQ = []) (hevt : u.evtQ = []) (hp : u.pend ≠ []) :
    (u.drain P).pend.length < u.pend.length := by
  obtain ⟨done, hdone⟩ := drainPushes_pend_sub P u.pend u
  obtain ⟨hwaitOut, hwaitEvt⟩ := drainPushes_waits P u.pend u
  have hconserved := drainPushes_conserves P u.pend u
  rw [hout, hevt] at hconserved
  by_contra hge
  have hsame : (drainPushes P u.pend u).pend = u.pend := by
    have hlen := congrArg List.length hdone
    rw [List.length_append] at hlen
    obtain rfl : done = [] := List.length_eq_zero_iff.1 (by simp only [State.drain] at hge; omega)
    exact hdone
  rw [hsame] at hconserved hwaitOut hwaitEvt
  obtain ⟨hnoOut, hnoEvt⟩ : (drainPushes P u.pend u).outQ = [] ∧ (drainPushes P u.pend u).evtQ = [] := by
    simpa using hconserved
  cases hpend : u.pend with
  | nil => exact hp hpend
  | cons p rest =>
    cases p with
    | byte b => exact hwaitOut b rest hpend (by rw [hnoOut]; exact fits_one P.outDepth_pos)
    | record r => exact hwaitEvt r rest hpend (by rw [hnoEvt]; exact fits_one P.evtDepth_pos)

end Drained

/-- A move that drains `u`, and as many more as its pushes need, deliver them all and leave `u` settled. -/
theorem delivers_drain {i : Instr} {s u : State} (hport : u.cmdPort = none) (hi : decode u.lcmd = .ok i)
    (hbusy : u.pend ≠ [] → u.status.busy = true) (hout : u.outQ = []) (hevt : u.evtQ = [])
    (hmove : engineMove s = .next (u.drain Config.params)) :
    Delivers s (u.settle [] []) (pushedBytes u.pend) (pushedRecords u.pend) := by
  induction hn : u.pend.length using Nat.strong_induction_on generalizing s u with
  | _ n ih =>
    obtain ⟨hbytes, hrecords⟩ := drainPushes_conserves Config.params u.pend u
    rw [hout, List.nil_append] at hbytes
    rw [hevt, List.nil_append] at hrecords
    have hfirst := Delivers.move hmove
    by_cases hmade : (u.drain Config.params).pend = []
    · rw [handOver_drain_of_made hout hevt hmade] at hfirst
      rw [← hbytes, ← hrecords]
      change Delivers s _ ((u.drain Config.params).outQ ++ pushedBytes (u.drain Config.params).pend)
        ((u.drain Config.params).evtQ ++ pushedRecords (u.drain Config.params).pend)
      rwa [hmade, pushedBytes_nil, pushedRecords_nil, List.append_nil, List.append_nil]
    · have hp : u.pend ≠ [] := fun hnil => hmade
        (List.suffix_nil.1 (hnil ▸ drainPushes_pend_sub Config.params u.pend u))
      rw [handOver_drain_of_held hout hevt hmade] at hfirst
      set v : State := { u with pend := (u.drain Config.params).pend }
      have hvmove : engineMove v = .next (v.drain Config.params) := by
        rw [engineMove_busy (s := v) (hbusy hp) hi]
        exact exec_drain i hport (hbusy hp) (pushing_iff.2 (.inl hmade))
      have hrest : Delivers v (v.settle [] []) (pushedBytes v.pend) (pushedRecords v.pend) :=
        ih _ (hn ▸ drain_pend_length_lt hout hevt hp) hport hi (fun _ => hbusy hp) hout hevt hvmove rfl
      rw [← hbytes, ← hrecords]
      exact hfirst.trans hrest

/-- Only an error entry ends SENC's or SDEC's command in its body, and it pushes nothing. -/
theorem bodyOf_busy_of_pushes {P : Params} {i : Instr} {s : State} (hi : isStream i = true) (hb : s.status.busy = true)
    (hp : (bodyOf P i s).pend ≠ []) : (bodyOf P i s).status.busy = true := by
  cases i with
  | senc c =>
    rcases stage_cases s with hs | ⟨hs, hlt⟩ | ⟨hs, hlt⟩
    · rw [bodyOf_senc_start c hs]
      cases c <;> exact hb
    · rw [bodyOf_senc_block c hs hlt]
      cases c <;> exact hb
    · rw [bodyOf_senc_final c hs hlt]
      exact hb
  | sdec c =>
    rcases stage_cases s with hs | ⟨hs, hlt⟩ | ⟨hs, hlt⟩
    · rw [bodyOf_sdec_start c hs]
      exact hb
    · rw [bodyOf_sdec_block c hs hlt]
      cases c <;> exact hb
    · rw [bodyOf_sdec_final c hs hlt] at hp ⊢
      rcases sdecFinal_cases P c s with ⟨p, hf⟩ | hf | hf <;> rw [hf] at hp ⊢
      · exact hb
      · exact hb
      · exact absurd rfl hp
  | stretch | genperm | encb | decb | encblk | decblk | encode | decode | abort => cases hi

/-- A whole step of SENC or SDEC into empty queues, with its waits for room. -/
theorem delivers_step {i : Instr} {s : State} (hs : isStream i = true) (h : s.atStep) (hi : decode s.lcmd = .ok i)
    (ha : s.status.abortreq = false) (hn : stepTakes i s ≤ s.inQ.length) (hout : s.outQ = []) (hevt : s.evtQ = []) :
    Delivers s ((bodyOf Config.params i s).settle [] []) (stepBytes Config.params i s) (stepRecords Config.params i s) := by
  obtain ⟨hport, hbusy, hp, -⟩ := id h
  obtain ⟨-, -, -, -, -, hlcmd, hbodyPort, -⟩ := bodyOf_frame Config.params i s
  obtain ⟨hbodyOut, hbodyEvt⟩ := bodyOf_queues Config.params i s
  obtain ⟨hbytes, hrecords⟩ := bodyOf_pushes (P := Config.params) hp hn
  have hopen : streamsOpen Config.params s (stepBytes Config.params i s) (stepRecords Config.params i s) :=
    ⟨fun _ => by rw [hout]; exact fits_one Config.params.outDepth_pos,
      fun _ => by rw [hevt]; exact fits_one Config.params.evtDepth_pos⟩
  have hmove : engineMove s = .next ((bodyOf Config.params i s).drain Config.params) := by
    rw [engineMove_busy hbusy hi, exec_open i h ha hn hopen]
  rw [← hbytes, ← hrecords]
  exact delivers_drain (hbodyPort.trans hport) (hlcmd.symm ▸ hi) (bodyOf_busy_of_pushes hs hbusy) (hbodyOut.trans hout)
    (hbodyEvt.trans hevt) hmove

end Sys2Proof.Machine

namespace Sys2Proof.Machine

/-! ### Blocks of a message as a stream command meets them (spec/43_streampipeline.md R200, R211) -/

theorem drop_take_eq_blockOf (m : Bytes) (n : Nat) : (m.drop (8192 * n)).take (min 8192 (m.length - 8192 * n)) = blockOf m n := by
  rw [blockOf, blockSize, ← List.length_drop, ← List.take_take, List.take_length]

/-- The block at the head of what is left of a message's bytes. -/
theorem take_drop_eq_blockOf (l : Bytes) {len n : Nat} (h : len ≤ l.length) :
    (l.drop (8192 * n)).take (min 8192 (len - 8192 * n)) = blockOf (l.take len) n := by
  have hlen : (l.take len).length = len := by rw [List.length_take, min_eq_left h]
  rw [← drop_take_eq_blockOf, hlen, List.drop_take, List.take_take]
  congr 1
  omega

/-- The record of block `n`, when one is due. -/
def blockRecords (totb n : Nat) : List Progress := if n % interval totb = 0 then [⟨n, totb, n, totb⟩] else []

theorem flatMap_blockRecords (totb : Nat) : (List.range totb).flatMap (blockRecords totb) = periodicRecords totb := by
  rw [periodicRecords]
  induction List.range totb with
  | nil => rfl
  | cons n l ih =>
    rw [List.flatMap_cons, ih, blockRecords, List.filter_cons]
    by_cases h : n % interval totb = 0 <;> simp [h]

theorem streamRecords_eq (totb : Nat) : streamRecords totb = periodicRecords totb ++ [finalRecord totb] := by
  simp [streamRecords, periodicRecords, recordDue, periodicRecord, beq_eq_decide]

/-! ### Between two blocks of a run -/

/-- SENC or SDEC between two steps, `n` of the blocks of `len` bytes behind it, its queues drained. -/
structure AtBlock (i : Instr) (key : Bytes) (len n : Nat) (u : State) : Prop where
  turn : u.atStep
  runs : decode u.lcmd = .ok i
  started : u.started = true
  noAbort : u.status.abortreq = false
  noError : u.status.err = .noError
  ltot : u.ltot = len
  totb : u.totb = totalBlocks len
  intv : u.intv = interval (totalBlocks len)
  bidx : u.bidx = n
  keyBytes : u.keyBytes Config.params = key
  chain : u.chainValue Config.params = chainKey Config.params key n
  outEmpty : u.outQ = []
  evtEmpty : u.evtQ = []

namespace AtBlock

variable {i : Instr} {key : Bytes} {len n : Nat} {s u v : State}

/-- After the start step. -/
theorem start (hs : StreamReady Config.params i s)
    (hu : u = { (s.streamStart len) with inQ := u.inQ, zbuf := u.zbuf }) : AtBlock i (s.keyBytes Config.params) len 0 u := by
  rw [hu]
  exact { turn := hs.turn, runs := hs.runs, started := rfl, noAbort := hs.noAbort, noError := hs.noError, ltot := rfl,
          totb := rfl, intv := rfl, bidx := rfl, keyBytes := rfl, chain := rfl, outEmpty := hs.outEmpty, evtEmpty := hs.evtEmpty }

/-- After one more block step. -/
theorem next (h : AtBlock i key len n u)
    (hv : v = { State.loadBlock Config.params (blockKeyOf Config.params key n) u with
      bidx := n + 1, olen := v.olen, inQ := v.inQ, zbuf := v.zbuf }) : AtBlock i key len (n + 1) v := by
  have hklen : u.klen = key.length := by rw [← h.keyBytes, State.keyBytes_length]
  rw [hv]
  exact { turn := h.turn, runs := h.runs, started := h.started, noAbort := h.noAbort, noError := h.noError, ltot := h.ltot,
          totb := h.totb, intv := h.intv, bidx := rfl, keyBytes := h.keyBytes, outEmpty := h.outEmpty, evtEmpty := h.evtEmpty,
          chain := by rw [chainKey_succ, ← hklen]; rfl }

theorem blockKey (h : AtBlock i key len n u) : stretch Config.params (u.chainValue Config.params) 8192 = blockKeyOf Config.params key n := by
  rw [h.chain]
  rfl

theorem lt_totb (h : AtBlock i key len n u) (hn : n < totalBlocks len) : u.bidx < u.totb := by rwa [h.bidx, h.totb]

theorem not_lt_totb (h : AtBlock i key len (totalBlocks len) u) : ¬ u.bidx < u.totb := by rw [h.bidx, h.totb]; exact lt_irrefl _

theorem records (h : AtBlock i key len n u) (hi : isStream i = true) (hn : n < totalBlocks len) :
    stepRecords Config.params i u = blockRecords (totalBlocks len) n := by
  rw [stepRecords_block hi h.started (h.lt_totb hn), h.bidx, h.totb, h.intv, blockRecords]

end AtBlock

/-! ### A whole SENC (spec/43_streampipeline.md R210 to R212) -/

/-- What a SENC has done with its message `m` after `n` blocks, from the state `s` that it started in. -/
structure SencProgress (c : Bool) (s : State) (m : Bytes) (n : Nat) (u : State) : Prop where
  block : AtBlock (.senc c) (s.keyBytes Config.params) m.length n u
  olen : u.olen = min (8192 * n) m.length
  source : if c then u.inQ = s.inQ.drop s.mlen ∧ u.zbuf = m else u.inQ = s.inQ.drop (min (8192 * n) m.length)
  key : u.key = s.key
  klen : u.klen = s.klen

section Senc

variable {c : Bool} {s u : State} {m : Bytes} {n : Nat}

theorem senc_start (h : StreamReady Config.params (.senc c) s) (hm : m = packed Config.params c (s.inQ.take s.mlen)) :
    ∃ u, SencProgress c s m 0 u ∧ Delivers s u [] [] := by
  obtain ⟨-, -, hp, hf⟩ := h.turn
  have htakes : stepTakes (.senc c) s ≤ s.inQ.length := by
    have hinput := h.input
    cases c <;> simp [stepTakes, h.notStarted, hinput]
  have hstep := delivers_step rfl h.turn h.runs h.noAbort htakes h.outEmpty h.evtEmpty
  have hbytes : stepBytes Config.params (.senc c) s = [] := by simp [stepBytes, h.notStarted]
  rw [hbytes, stepRecords_start _ _ h.notStarted, bodyOf_senc_start c h.notStarted] at hstep
  refine ⟨_, ?_, hstep⟩
  cases c with
  | false =>
    have hlen : s.mlen = m.length := by rw [hm, packed]; simp [h.input]
    refine { block := AtBlock.start h ?_, olen := ?_, source := ?_, key := rfl, klen := rfl }
    · simp [State.settle, sencStart, State.streamStart, hlen, hp, hf]
    · simpa [State.settle, sencStart] using h.counted
    · simp [State.settle, sencStart]
  | true =>
    have hz : Config.params.compress (s.inBytes s.mlen) = m := by rw [hm]; rfl
    refine { block := AtBlock.start h ?_, olen := ?_, source := ?_, key := rfl, klen := rfl }
    · simp [State.settle, sencStart, State.streamStart, State.dropIn, hz, hp, hf]
    · simpa [State.settle, sencStart] using h.counted
    · simp [State.settle, sencStart, hz]

/-- The block that the step reads, from IN or from ZBUF. -/
theorem SencProgress.block_source (h : SencProgress c s m n u) (hm : m = packed Config.params c (s.inQ.take s.mlen))
    (hinput : s.mlen ≤ s.inQ.length) (hn : 8192 * n < m.length) :
    (if c = true then (u.zbuf.drop (8192 * n)).take (min 8192 (m.length - 8192 * n))
      else u.inQ.take (min 8192 (m.length - 8192 * n))) = blockOf m n := by
  have hsource := h.source
  cases c with
  | true =>
    obtain ⟨-, hz⟩ : u.inQ = s.inQ.drop s.mlen ∧ u.zbuf = m := hsource
    rw [hz]
    exact drop_take_eq_blockOf m n
  | false =>
    have hm : m = s.inQ.take s.mlen := hm
    have hlen : m.length = s.mlen := by rw [hm, List.length_take, min_eq_left hinput]
    have hin : u.inQ = s.inQ.drop (min (8192 * n) m.length) := hsource
    rw [hin, min_eq_left hn.le, hlen, hm]
    exact take_drop_eq_blockOf s.inQ hinput

theorem senc_block (h : SencProgress c s m n u) (hm : m = packed Config.params c (s.inQ.take s.mlen))
    (hinput : s.mlen ≤ s.inQ.length) (hn : n < totalBlocks m.length) :
    ∃ v, SencProgress c s m (n + 1) v ∧
      Delivers u v (streamEncBlock Config.params m (s.keyBytes Config.params) n) (blockRecords (totalBlocks m.length) n) := by
  have hb := h.block
  obtain ⟨-, -, hp, hf⟩ := hb.turn
  have hlt := hb.lt_totb hn
  have hlast : 8192 * n < m.length := lt_totalBlocks_iff.1 hn
  have hlen : u.blockLen = min 8192 (m.length - 8192 * n) := by rw [State.blockLen, hb.ltot, hb.bidx, blockSize]
  have hbytes : stepBytes Config.params (.senc c) u = streamEncBlock Config.params m (s.keyBytes Config.params) n := by
    rw [stepBytes_senc_block hb.started hlt, hb.ltot, hb.bidx, hb.blockKey, h.block_source hm hinput hlast, streamEncBlock]
  have htakes : stepTakes (.senc c) u ≤ u.inQ.length := by
    rw [stepTakes_senc_block hb.started hlt, hb.ltot, hb.bidx]
    have hsource := h.source
    cases c with
    | true => exact Nat.zero_le _
    | false =>
      have hin : u.inQ = s.inQ.drop (min (8192 * n) m.length) := hsource
      have hmlen : m.length ≤ s.inQ.length := by rw [hm, packed]; simp
      simp only [hin, List.length_drop, Bool.false_eq_true, if_false]
      omega
  have hstep := delivers_step rfl hb.turn hb.runs hb.noAbort htakes hb.outEmpty hb.evtEmpty
  rw [hbytes, hb.records rfl hn, bodyOf_senc_block c hb.started hlt] at hstep
  refine ⟨_, ?_, hstep⟩
  have hbk : stretch Config.params (u.chainValue Config.params) blockSize = blockKeyOf Config.params (s.keyBytes Config.params) n :=
    hb.blockKey
  refine { block := hb.next ?_, olen := ?_, source := ?_, key := ?_, klen := ?_ }
  · cases c <;> simp [State.settle, sencBlock, State.loadBlock, State.loadTables, State.emit, State.dropIn, hbk, hp, hf, hb.bidx]
  · have holen : ((sencBlock Config.params c u).settle [] []).olen = u.olen + u.blockLen := by cases c <;> rfl
    rw [holen, h.olen, hlen]
    omega
  · have hsource := h.source
    cases c with
    | true => exact hsource
    | false =>
      have hin : u.inQ = s.inQ.drop (min (8192 * n) m.length) := hsource
      change u.inQ.drop u.blockLen = s.inQ.drop (min (8192 * (n + 1)) m.length)
      rw [hin, hlen, List.drop_drop]
      congr 1
      omega
  · exact h.key ▸ (by cases c <;> rfl)
  · exact h.klen ▸ (by cases c <;> rfl)

theorem senc_final (h : SencProgress c s m (totalBlocks m.length) u) :
    ∃ t, Delivers u t [] [finalRecord (totalBlocks m.length)] ∧
      t = { u with started := false, status := doneStatus u.status } := by
  have hb := h.block
  obtain ⟨-, -, hp, hf⟩ := hb.turn
  obtain ⟨hbody, hbytes, hrecords⟩ := finalStep_record (P := Config.params) (i := .senc c) (.inr ⟨c, rfl⟩) hb.started hb.not_lt_totb
  have htakes : stepTakes (.senc c) u ≤ u.inQ.length := by
    rw [stepTakes_final rfl hb.started hb.not_lt_totb]
    exact Nat.zero_le _
  have hstep := delivers_step rfl hb.turn hb.runs hb.noAbort htakes hb.outEmpty hb.evtEmpty
  rw [hbody, hbytes, hrecords, hb.totb] at hstep
  exact ⟨_, hstep, by simp [State.settle, hp, hf]⟩

end Senc

/-- A whole SENC: the enciphered stream and its records, and the state it ends in. -/
theorem senc_run {c : Bool} {s : State} (h : StreamReady Config.params (.senc c) s) {m : Bytes}
    (hm : m = packed Config.params c (s.inQ.take s.mlen)) :
    ∃ t, Delivers s t (streamEncBytes Config.params m (s.keyBytes Config.params)) (streamRecords (totalBlocks m.length)) ∧
      t.status.busy = false ∧ t.status.done = true ∧ t.status.err = .noError ∧ t.olen = m.length ∧
      t.bidx = totalBlocks m.length ∧ t.totb = totalBlocks m.length ∧ t.inQ = s.inQ.drop s.mlen ∧ t.key = s.key ∧
      t.klen = s.klen := by
  obtain ⟨u, hu, hsu⟩ := senc_start h hm
  obtain ⟨v, hv, huv⟩ := Delivers.iterate (totalBlocks m.length) (fun j w hj hw => senc_block hw hm h.input hj) hu
  obtain ⟨t, hvt, ht⟩ := senc_final hv
  have hall : min (8192 * totalBlocks m.length) m.length = m.length := min_eq_right (le_mul_totalBlocks _)
  have hinQ : v.inQ = s.inQ.drop s.mlen := by
    have hsource := hv.source
    cases c with
    | true => exact hsource.1
    | false =>
      have hlen : m.length = s.mlen := by rw [hm, packed]; simp [h.input]
      rwa [hall, hlen] at hsource
  refine ⟨t, ?_, ?_⟩
  · have hrun := hsu.trans (huv.trans hvt)
    rwa [List.nil_append, List.nil_append, List.append_nil, flatMap_blockRecords, ← streamRecords_eq] at hrun
  · rw [ht]
    exact ⟨rfl, rfl, hv.block.noError, hv.olen.trans hall, hv.block.bidx, hv.block.totb, hinQ, hv.key, hv.klen⟩

/-- Settles O58: start, one step for each block, final (`senc_run`). -/
theorem sencRunDeliversTheStream : Obligations.SencRunDeliversTheStream := by
  intro c s h m
  obtain ⟨t, ⟨k, hk⟩, ht⟩ := senc_run h (rfl : m = _)
  exact ⟨k, t, hk [] [], ht⟩

end Sys2Proof.Machine

namespace Sys2Proof.Machine

/-! ### A whole SDEC (spec/43_streampipeline.md R213, R214) -/

/-- What an SDEC has done with its input after `n` blocks, from the state `s` that it started in. -/
structure SdecProgress (c : Bool) (s : State) (n : Nat) (u : State) : Prop where
  block : AtBlock (.sdec c) (s.keyBytes Config.params) s.mlen n u
  olen : u.olen = if c then 0 else min (8192 * n) s.mlen
  inQ : u.inQ = s.inQ.drop (min (8192 * n) s.mlen)
  zbuf : c = true →
    u.zbuf = (List.range n).flatMap (streamDecBlock Config.params (s.inQ.take s.mlen) (s.keyBytes Config.params))

section Sdec

variable {c : Bool} {s u : State} {n : Nat}

theorem sdec_start (h : StreamReady Config.params (.sdec c) s) : ∃ u, SdecProgress c s 0 u ∧ Delivers s u [] [] := by
  obtain ⟨-, -, hp, hf⟩ := h.turn
  have htakes : stepTakes (.sdec c) s ≤ s.inQ.length := by simp [stepTakes, h.notStarted]
  have hstep := delivers_step rfl h.turn h.runs h.noAbort htakes h.outEmpty h.evtEmpty
  have hbytes : stepBytes Config.params (.sdec c) s = [] := by simp [stepBytes, h.notStarted]
  rw [hbytes, stepRecords_start _ _ h.notStarted, bodyOf_sdec_start c h.notStarted] at hstep
  refine ⟨_, { block := AtBlock.start h ?_, olen := ?_, inQ := ?_, zbuf := fun _ => rfl }, hstep⟩
  · simp [State.settle, sdecStart, State.streamStart, hp, hf]
  · simpa [State.settle, sdecStart] using h.counted
  · simp [State.settle, sdecStart]

theorem sdec_block (h : SdecProgress c s n u) (hinput : s.mlen ≤ s.inQ.length) (hn : n < totalBlocks s.mlen) :
    ∃ v, SdecProgress c s (n + 1) v ∧
      Delivers u v (if c then [] else streamDecBlock Config.params (s.inQ.take s.mlen) (s.keyBytes Config.params) n)
        (blockRecords (totalBlocks s.mlen) n) := by
  have hb := h.block
  obtain ⟨-, -, hp, hf⟩ := hb.turn
  have hlt := hb.lt_totb hn
  have hlast : 8192 * n < s.mlen := lt_totalBlocks_iff.1 hn
  have hlen : u.blockLen = min 8192 (s.mlen - 8192 * n) := by rw [State.blockLen, hb.ltot, hb.bidx, blockSize]
  have hin : u.inQ = s.inQ.drop (8192 * n) := by rw [h.inQ, min_eq_left hlast.le]
  have hsource : u.inQ.take (min 8192 (s.mlen - 8192 * n)) = blockOf (s.inQ.take s.mlen) n := by
    rw [hin, take_drop_eq_blockOf s.inQ hinput]
  have hbk : stretch Config.params (u.chainValue Config.params) blockSize = blockKeyOf Config.params (s.keyBytes Config.params) n :=
    hb.blockKey
  have hbytes : stepBytes Config.params (.sdec c) u =
      if c then [] else streamDecBlock Config.params (s.inQ.take s.mlen) (s.keyBytes Config.params) n := by
    rw [stepBytes_sdec_block hb.started hlt, hb.ltot, hb.bidx, hb.blockKey, hsource, streamDecBlock]
  have htakes : stepTakes (.sdec c) u ≤ u.inQ.length := by
    rw [stepTakes_sdec_block hb.started hlt, hb.ltot, hb.bidx, hin, List.length_drop]
    omega
  have hstep := delivers_step rfl hb.turn hb.runs hb.noAbort htakes hb.outEmpty hb.evtEmpty
  rw [hbytes, hb.records rfl hn, bodyOf_sdec_block c hb.started hlt] at hstep
  refine ⟨_, { block := hb.next ?_, olen := ?_, inQ := ?_, zbuf := fun hc => ?_ }, hstep⟩
  · cases c <;> simp [State.settle, sdecBlock, State.loadBlock, State.loadTables, State.emit, State.dropIn, hbk, hp, hf, hb.bidx]
  · have holen := h.olen
    cases c with
    | true => exact holen
    | false =>
      have holen : u.olen = min (8192 * n) s.mlen := holen
      change u.olen + u.blockLen = min (8192 * (n + 1)) s.mlen
      rw [holen, hlen]
      omega
  · have hdrop : ((sdecBlock Config.params c u).settle [] []).inQ = u.inQ.drop u.blockLen := by cases c <;> rfl
    rw [hdrop, hin, hlen, List.drop_drop]
    congr 1
    omega
  · subst hc
    have hz : ((sdecBlock Config.params true u).settle [] []).zbuf =
        u.zbuf ++ decodeBlock (u.inQ.take u.blockLen) (stretch Config.params (u.chainValue Config.params) blockSize)
          (generate Config.params (stretch Config.params (u.chainValue Config.params) blockSize)).2 := rfl
    rw [hz, h.zbuf rfl, hbk, hlen, hsource, List.range_succ, List.flatMap_append, List.flatMap_singleton, streamDecBlock]

/-- All blocks: with C = 0 the deciphered bytes are delivered, with C = 1 they stand in ZBUF. -/
theorem sdec_blocks (h : StreamReady Config.params (.sdec c) s) :
    ∃ u, SdecProgress c s (totalBlocks s.mlen) u ∧
      (c = true → u.zbuf = streamDecBytes Config.params (s.inQ.take s.mlen) (s.keyBytes Config.params)) ∧
      Delivers s u (if c then [] else streamDecBytes Config.params (s.inQ.take s.mlen) (s.keyBytes Config.params))
        (periodicRecords (totalBlocks s.mlen)) := by
  have hlen : (s.inQ.take s.mlen).length = s.mlen := by rw [List.length_take, min_eq_left h.input]
  obtain ⟨u, hu, hsu⟩ := sdec_start h
  obtain ⟨v, hv, huv⟩ := Delivers.iterate (totalBlocks s.mlen) (fun j w hj hw => sdec_block hw h.input hj) hu
  refine ⟨v, hv, fun hc => by rw [hv.zbuf hc, streamDecBytes, hlen], ?_⟩
  have hrun := hsu.trans huv
  rw [List.nil_append, List.nil_append, flatMap_blockRecords] at hrun
  cases c with
  | true =>
    have hnil : (List.range (totalBlocks s.mlen)).flatMap (fun _ => ([] : Bytes)) = [] := List.flatMap_eq_nil_iff.2 fun _ _ => rfl
    exact hnil ▸ hrun
  | false =>
    rw [streamDecBytes, hlen]
    exact hrun

theorem sdec_final_takes (h : SdecProgress c s (totalBlocks s.mlen) u) : stepTakes (.sdec c) u ≤ u.inQ.length := by
  rw [stepTakes_final rfl h.block.started h.block.not_lt_totb]
  exact Nat.zero_le _

/-- The final step with C = 0, and with C = 1 when there is a message. -/
theorem sdec_final_message (h : SdecProgress c s (totalBlocks s.mlen) u) {p : Bytes}
    (hz : c = true → Config.params.decompress u.zbuf = some p) :
    ∃ t, Delivers u t (if c then p else []) [finalRecord (totalBlocks s.mlen)] ∧
      t = { u with olen := if c then p.length else u.olen, started := false, status := doneStatus u.status } := by
  have hb := h.block
  obtain ⟨-, -, hpend, hf⟩ := hb.turn
  have hstep := delivers_step rfl hb.turn hb.runs hb.noAbort (sdec_final_takes h) hb.outEmpty hb.evtEmpty
  cases c with
  | true =>
    obtain ⟨hbody, hbytes, hrecords⟩ := finalStep_message hb.started hb.not_lt_totb (hz rfl)
    rw [hbody, hbytes, hrecords, hb.totb] at hstep
    exact ⟨_, hstep, by simp [State.settle, hpend, hf, hb.totb]⟩
  | false =>
    obtain ⟨hbody, hbytes, hrecords⟩ := finalStep_record (P := Config.params) (.inl rfl) hb.started hb.not_lt_totb
    rw [hbody, hbytes, hrecords, hb.totb] at hstep
    exact ⟨_, hstep, by simp [State.settle, hpend, hf]⟩

/-- The final step with C = 1 when the bytes do not decompress. -/
theorem sdec_final_failed (h : SdecProgress true s (totalBlocks s.mlen) u) (hz : Config.params.decompress u.zbuf = none) :
    ∃ t, Delivers u t [] [] ∧ t = u.raise .decodeFailed := by
  have hb := h.block
  obtain ⟨hbody, hbytes, hrecords⟩ := finalStep_failed hb.started hb.not_lt_totb hz
  have hstep := delivers_step rfl hb.turn hb.runs hb.noAbort (sdec_final_takes h) hb.outEmpty hb.evtEmpty
  rw [hbody, hbytes, hrecords] at hstep
  exact ⟨_, hstep, by simp [State.settle, State.raise]⟩

theorem SdecProgress.inQ_end (h : SdecProgress c s (totalBlocks s.mlen) u) : u.inQ = s.inQ.drop s.mlen := by
  rw [h.inQ, min_eq_right (le_mul_totalBlocks _)]

/-- A whole SDEC whose bytes unpack: the message and all records. -/
theorem sdec_run (h : StreamReady Config.params (.sdec c) s) {p : Bytes}
    (hp : unpacked Config.params c (streamDecBytes Config.params (s.inQ.take s.mlen) (s.keyBytes Config.params)) = some p) :
    ∃ t, Delivers s t p (periodicRecords (totalBlocks s.mlen) ++ [finalRecord (totalBlocks s.mlen)]) ∧
      t.status.err = .noError ∧ t.olen = p.length ∧ t.status.busy = false ∧ t.status.done = true ∧
      t.bidx = totalBlocks s.mlen ∧ t.inQ = s.inQ.drop s.mlen := by
  obtain ⟨u, hu, hz, hsu⟩ := sdec_blocks h
  obtain ⟨t, hut, rfl⟩ := sdec_final_message (p := p) hu fun hc => by
    rw [hz hc]
    subst hc
    exact hp
  have hrun := hsu.trans hut
  refine ⟨{ u with olen := if c then p.length else u.olen, started := false, status := doneStatus u.status }, ?_,
    hu.block.noError, ?_, rfl, rfl, hu.block.bidx, hu.inQ_end⟩
  · cases c with
    | true => exact hrun
    | false =>
      obtain rfl := Option.some.inj hp
      simpa using hrun
  · cases c with
    | true => rfl
    | false =>
      obtain rfl := Option.some.inj hp
      have hkey : 1 ≤ (s.keyBytes Config.params).length := by
        rw [State.keyBytes_length]
        exact h.key
      have holen : u.olen = min (8192 * totalBlocks s.mlen) s.mlen := hu.olen
      change u.olen = _
      rw [holen, min_eq_right (le_mul_totalBlocks _), streamDecBytes_length _ _ hkey, List.length_take, min_eq_left h.input]

/-- A whole SDEC whose bytes do not decompress: no byte, the periodic records, DECODE_FAILED. -/
theorem sdec_run_failed (h : StreamReady Config.params (.sdec c) s)
    (hp : unpacked Config.params c (streamDecBytes Config.params (s.inQ.take s.mlen) (s.keyBytes Config.params)) = none) :
    ∃ t, Delivers s t [] (periodicRecords (totalBlocks s.mlen)) ∧ t.status.err = .decodeFailed ∧ t.olen = 0 ∧
      t.status.busy = false ∧ t.status.done = true ∧ t.bidx = totalBlocks s.mlen ∧ t.inQ = s.inQ.drop s.mlen := by
  cases c with
  | false => cases hp
  | true =>
    obtain ⟨u, hu, hz, hsu⟩ := sdec_blocks h
    obtain ⟨t, hut, rfl⟩ := sdec_final_failed hu (by rw [hz rfl]; exact hp)
    have hrun := hsu.trans hut
    rw [List.append_nil, List.append_nil] at hrun
    exact ⟨u.raise .decodeFailed, hrun, rfl, hu.olen, rfl, rfl, hu.block.bidx, hu.inQ_end⟩

end Sdec

/-- Settles O59: start, one step for each block, and the final step by whether the bytes unpack. -/
theorem sdecRunDeliversTheMessage : Obligations.SdecRunDeliversTheMessage := by
  intro c s h d totb
  cases hu : unpacked Config.params c d with
  | some p =>
    obtain ⟨t, ⟨k, hk⟩, herr, holen, hrest⟩ := sdec_run h hu
    exact ⟨k, t, ⟨hk [] [], herr, holen⟩, hrest⟩
  | none =>
    obtain ⟨t, ⟨k, hk⟩, herr, holen, hrest⟩ := sdec_run_failed h hu
    exact ⟨k, t, ⟨hk [] [], herr, holen⟩, hrest⟩

/-- Settles O60: SENC delivers the enciphered packed message (`senc_run`), which SDEC deciphers to the packed message
(`streamDecBytes_streamEncBytes`) and unpacks (`unpacked_packed`). -/
theorem sdecUndoesSenc : Obligations.SdecUndoesSenc := by
  intro c s h
  obtain ⟨t, ⟨k, hk⟩, hbusy, -⟩ := senc_run h (rfl : packed Config.params c (s.inQ.take s.mlen) = _)
  refine ⟨k, t, _, _, hk [] [], hbusy, fun u hu hkey _ hin => ?_⟩
  have hpos : 1 ≤ (s.keyBytes Config.params).length := by
    rw [State.keyBytes_length]
    exact h.key
  have hmessage : unpacked Config.params c (streamDecBytes Config.params (u.inQ.take u.mlen) (u.keyBytes Config.params)) =
      some (s.inQ.take s.mlen) := by
    rw [hkey, hin, List.nil_append, streamDecBytes_streamEncBytes _ _ hpos, unpacked_packed]
  obtain ⟨v, ⟨k', hk'⟩, herr, -, hidle, -⟩ := sdec_run hu hmessage
  exact ⟨k', v, _, hk' [] [], hidle, herr⟩

end Sys2Proof.Machine
